-- ==== Sys2Proof/Word.lean ====
section
/-!
DEFINITION. The word types of HDM (00_scope.md R7, R10): all values are unsigned, bit 0 is the least significant.
-/

namespace Sys2Proof

/-- A byte of the buffer memory (10_state.md R41). -/
abbrev Byte := BitVec 8

/-- A 32-bit word: the accumulator words A, B, C, D and the operand word W (00_scope.md R7). -/
abbrev Word := BitVec 32

/-- A 64-bit value: the seed, the length, the result, and every value on the register port (R7, R34). -/
abbrev Dword := BitVec 64

/-- A buffer address. Registers ADDR, P and EADDR have ADDR_W bits (10_state.md R38); the model holds them in
64 bits and keeps the bits at and above ADDR_W zero (assumption log 12). -/
abbrev Addr := BitVec 64

end Sys2Proof
end

