-- ==== Sys2Proof/Config.lean ====
section
/-!
DEFINITION. The parameters of a device (00_scope.md R6, R8) and the model's free values.

R6 says that a model takes every parameter as an argument. They are plain data, `Params`, and stand in `State.params`,
which no step changes: what is said of every state is said of every value of every parameter (assumption log 1).
-/

namespace Sys2Proof

/-- Parameter ADDR_W, the width of buffer addresses: 32 or 64 (00_scope.md R6). -/
inductive AddrWidth where
  | w32
  | w64
  deriving DecidableEq, Repr

/-- ADDR_W as a number. -/
def AddrWidth.bits : AddrWidth → Nat
  | .w32 => 32
  | .w64 => 64

/-- Parameter BE_TAIL_LAYOUT (00_scope.md R6): where the big-endian tail reader places 1 to 3 bytes
(40_fetch_tail.md R102). `padLow` is the normative value. -/
inductive TailLayout where
  | padLow
  | rightJustified
  deriving DecidableEq, Repr

/-- The parameters of 00_scope.md R6. `q`, `p0` and `s` are the constant store of 10_state.md R32. -/
structure Params where
  /-- ADDR_W -/
  addrW : AddrWidth
  /-- S, an integer 0..31 -/
  s : BitVec 5
  /-- Q[0..6] -/
  q : Vector Word 7
  /-- P0 -/
  p0 : Dword
  /-- BE_TAIL_LAYOUT -/
  beTail : TailLayout
  /-- UNALIGNED_OK -/
  unalignedOk : Bool
  deriving DecidableEq, Repr

/-- 2^ADDR_W, the number of bytes of the buffer address space (10_state.md R41). -/
def Params.space (p : Params) : Nat := 2 ^ p.addrW.bits

namespace Config

/-- PRESUMED (unsafe). The constants 00_scope.md R8 recommends, `[from general knowledge, not in source]`, with the other
parameters at the values of R6's last column; `State.reset` holds them (assumption log 1). -/
def recommended : Params where
  addrW := .w64
  s := 17
  q := #v[0x92D78269, 0xCA9B4735, 0xA4ABA1C3, 0xF6499843, 0x86F0FD61, 0xCA2DA6FB, 0xC4BB3575]
  p0 := 0xEC99BF0D8372CAAB
  beTail := .padLow
  unalignedOk := false

/-- FREE VALUE (safe; assumption log 8). Which of the values that a byte held during the command a racing read returns
(20_memory.md R63, 93_implementation_defined.md U5); applied to `State.freeIx` and the byte's address. -/
opaque raceChoice : Nat → Nat → Nat

/-- FREE VALUE (safe; assumption log 9). What ALIGNBUF holds after a reset (10_state.md R33, R42); applied to
`State.freeIx`. -/
opaque alignbufAfterReset : Nat → Vector Byte 16

end Config

end Sys2Proof
end

