-- ==== Sys2Proof/Syntax.lean ====
section
/-!
DEFINITION. The commands of HDM: one constructor per row of spec/opcode_table.json (30_encoding.md R82 and its §8).
-/

namespace Sys2Proof

/-- The byte order that bit E of a command selects (30_encoding.md R83): E = 0 little-endian, E = 1 big-endian. -/
inductive ByteOrder where
  | little
  | big
  deriving DecidableEq, Repr

/-- A command. K of `mixup.ab` and `mixup.ba` is the 3-bit prime index (R84); K = 7 names no constant and is not
well-formed. -/
inductive Instr where
  /-- `hash.le` (R160) -/
  | hashLe
  /-- `hash.be` (R160) -/
  | hashBe
  /-- `init` (R120) -/
  | init
  /-- `bulk.setup` (R121) -/
  | bulkSetup
  /-- `bulk.block.le` (R123) -/
  | bulkBlockLe
  /-- `bulk.block.be` (R123) -/
  | bulkBlockBe
  /-- `bulk.fold` (R124) -/
  | bulkFold
  /-- `tail.q4.le` (R141) -/
  | tailQ4Le
  /-- `tail.q4.be` (R141) -/
  | tailQ4Be
  /-- `tail.q3.le` (R142) -/
  | tailQ3Le
  /-- `tail.q3.be` (R142) -/
  | tailQ3Be
  /-- `tail.q2.le` (R143) -/
  | tailQ2Le
  /-- `tail.q2.be` (R143) -/
  | tailQ2Be
  /-- `tail.q1.le` (R144) -/
  | tailQ1Le
  /-- `tail.q1.be` (R144) -/
  | tailQ1Be
  /-- `remix` (R147) -/
  | remix
  /-- `fetch32.le` (R105) -/
  | fetch32Le
  /-- `fetch32.be` (R105) -/
  | fetch32Be
  /-- `tail32.le` (R106) -/
  | tail32Le
  /-- `tail32.be` (R106) -/
  | tail32Be
  /-- `mixup.ab q<K>` (R145, X = 0) -/
  | mixupAb (k : BitVec 3)
  /-- `mixup.ba q<K>` (R145, X = 1) -/
  | mixupBa (k : BitVec 3)
  deriving DecidableEq, Repr

end Sys2Proof
end

