-- ==== Sys2Proof/WellFormed.lean ====
section
/-!
DEFINITION. What makes a command and a set of parameters well-formed.
-/

namespace Sys2Proof

/-- A command is well-formed when its K names a constant: K = 7 does not (30_encoding.md R84, R87 (f)). -/
def Instr.wf : Instr → Bool
  | .mixupAb k => k != 7
  | .mixupBa k => k != 7
  | .hashLe | .hashBe | .init | .bulkSetup | .bulkBlockLe | .bulkBlockBe | .bulkFold
  | .tailQ4Le | .tailQ4Be | .tailQ3Le | .tailQ3Be | .tailQ2Le | .tailQ2Be | .tailQ1Le | .tailQ1Be
  | .remix | .fetch32Le | .fetch32Be | .tail32Le | .tail32Be => true

/-- The parameters are legal by 00_scope.md R6: Q[0..6] are odd primes and P0 is an odd prime. The widths and ranges that
R6 gives (ADDR_W 32 or 64, S in 0..31, 32-bit Q, 64-bit P0) hold by type. No meaning depends on legality. -/
def Params.legal (p : Params) : Prop :=
  (∀ k : Fin 7, (p.q[k]).toNat.Prime ∧ (p.q[k]).toNat % 2 = 1) ∧ p.p0.toNat.Prime ∧ p.p0.toNat % 2 = 1

end Sys2Proof
end

