-- ==== Sys2Proof/Decode.lean ====
section
/-!
DEFINITION. The decoder of CMD writes (30_encoding.md R80 to R89), total on every 64-bit value and naming why a value is
illegal; after it the encoder, the rows of the opcode table, and the assembler's text (R91).
-/

namespace Sys2Proof

/-- OP, bits [3:0] of the command word (30_encoding.md R81). -/
def opField (v : Dword) : BitVec 4 := v.extractLsb' 0 4

/-- E, bit [4] (R81). -/
def eField (v : Dword) : Bool := v.getLsbD 4

/-- K, bits [7:5] (R81). -/
def kField (v : Dword) : BitVec 3 := v.extractLsb' 5 3

/-- X, bit [8] (R81). -/
def xField (v : Dword) : Bool := v.getLsbD 8

/-- RSV, bits [15:9] (R81). -/
def rsvField (v : Dword) : BitVec 7 := v.extractLsb' 9 7

/-- Bits [63:16] of a CMD write, which must be zero (R80). -/
def upperField (v : Dword) : BitVec 48 := v.extractLsb' 16 48

/-- Why a CMD write is illegal: the clauses (a) to (f) of 30_encoding.md R87. -/
inductive IllegalReason where
  /-- (a) v[63:16] is not 0 -/
  | upperBits
  /-- (b) OP is 0x0, 0xE or 0xF -/
  | reservedOp
  /-- (c) RSV is not 0 -/
  | reservedBits
  /-- (d) E = 1 on a byte-order-free operation -/
  | byteOrder
  /-- (e) K or X is not 0 on an operation other than MIXUP -/
  | mixupFields
  /-- (f) K = 7 on MIXUP -/
  | noConstant
  deriving DecidableEq, Repr

/-- What the decoder answers. -/
inductive Decoded where
  | legal (i : Instr)
  | illegal (r : IllegalReason)
  deriving DecidableEq, Repr

/-- An operation that reads the buffer: E selects the variant; K and X must be 0 (R83, R84, R85). -/
def decodeOrdered (e : Bool) (k : BitVec 3) (x : Bool) (le be : Instr) : Decoded :=
  if k ≠ 0 ∨ x = true then .illegal .mixupFields
  else .legal (if e then be else le)

/-- A byte-order-free operation other than MIXUP: E, K and X must be 0 (R83, R84, R85). -/
def decodeFree (e : Bool) (k : BitVec 3) (x : Bool) (i : Instr) : Decoded :=
  if k ≠ 0 ∨ x = true then .illegal .mixupFields
  else if e then .illegal .byteOrder
  else .legal i

/-- MIXUP: E must be 0, K is 0..6, X selects the operand order (R83, R84, R85). -/
def decodeMixup (e : Bool) (k : BitVec 3) (x : Bool) : Decoded :=
  if e then .illegal .byteOrder
  else if k = 7 then .illegal .noConstant
  else .legal (if x then .mixupBa k else .mixupAb k)

/-- The operation map (30_encoding.md R82). -/
def decodeFields (op : BitVec 4) (e : Bool) (k : BitVec 3) (x : Bool) : Decoded :=
  match op.toNat with
  | 0x1 => decodeOrdered e k x .hashLe .hashBe
  | 0x2 => decodeFree e k x .init
  | 0x3 => decodeFree e k x .bulkSetup
  | 0x4 => decodeOrdered e k x .bulkBlockLe .bulkBlockBe
  | 0x5 => decodeFree e k x .bulkFold
  | 0x6 => decodeOrdered e k x .tailQ4Le .tailQ4Be
  | 0x7 => decodeOrdered e k x .tailQ3Le .tailQ3Be
  | 0x8 => decodeOrdered e k x .tailQ2Le .tailQ2Be
  | 0x9 => decodeOrdered e k x .tailQ1Le .tailQ1Be
  | 0xA => decodeFree e k x .remix
  | 0xB => decodeOrdered e k x .fetch32Le .fetch32Be
  | 0xC => decodeOrdered e k x .tail32Le .tail32Be
  | 0xD => decodeMixup e k x
  | _ => .illegal .reservedOp

/-- The decoder of a 64-bit CMD write (30_encoding.md R80 to R89). -/
def decodeCommand (v : Dword) : Decoded :=
  if upperField v ≠ 0 then .illegal .upperBits
  else if rsvField v ≠ 0 then .illegal .reservedBits
  else decodeFields (opField v) (eField v) (kField v) (xField v)

/-- The command that a decoded CMD write stands for. -/
def Decoded.instr? : Decoded → Option Instr
  | .legal i => some i
  | .illegal _ => none

/-- The instruction the decoder reads from an instruction whose bits are `w`, numbered as spec/opcode_table.json numbers
them. A command is one CMD write (R80, R89), so bits above `nbits` are 0 and a value of more than 64 bits is no CMD write. -/
def decodeTableWord (nbits w : Nat) : Option Instr :=
  if nbits ≤ 64 then (decodeCommand (BitVec.ofNat 64 (w % 2 ^ nbits))).instr? else none

/-! ## The encoder -/

/-- The 16-bit command word of a command, from the table of 30_encoding.md §8. -/
def encode : Instr → BitVec 16
  | .hashLe => 0x0001
  | .hashBe => 0x0011
  | .init => 0x0002
  | .bulkSetup => 0x0003
  | .bulkBlockLe => 0x0004
  | .bulkBlockBe => 0x0014
  | .bulkFold => 0x0005
  | .tailQ4Le => 0x0006
  | .tailQ4Be => 0x0016
  | .tailQ3Le => 0x0007
  | .tailQ3Be => 0x0017
  | .tailQ2Le => 0x0008
  | .tailQ2Be => 0x0018
  | .tailQ1Le => 0x0009
  | .tailQ1Be => 0x0019
  | .remix => 0x000A
  | .fetch32Le => 0x000B
  | .fetch32Be => 0x001B
  | .tail32Le => 0x000C
  | .tail32Be => 0x001C
  | .mixupAb k => 0x000D ||| k.setWidth 16 <<< 5
  | .mixupBa k => 0x010D ||| k.setWidth 16 <<< 5

/-- The 64-bit value a host writes to CMD to issue a command (R80). -/
def commandValue (i : Instr) : Dword := (encode i).setWidth 64

/-- A row of spec/opcode_table.json: its mnemonic, mask and match. -/
structure OpcodeRow where
  mnemonic : String
  mask : BitVec 16
  pattern : BitVec 16
  deriving DecidableEq, Repr

/-- The rows of spec/opcode_table.json, in its order. -/
def opcodeTable : List OpcodeRow :=
  [⟨"hash.le", 0xFFFF, 0x0001⟩, ⟨"hash.be", 0xFFFF, 0x0011⟩, ⟨"init", 0xFFFF, 0x0002⟩, ⟨"bulk.setup", 0xFFFF, 0x0003⟩,
   ⟨"bulk.block.le", 0xFFFF, 0x0004⟩, ⟨"bulk.block.be", 0xFFFF, 0x0014⟩, ⟨"bulk.fold", 0xFFFF, 0x0005⟩,
   ⟨"tail.q4.le", 0xFFFF, 0x0006⟩, ⟨"tail.q4.be", 0xFFFF, 0x0016⟩, ⟨"tail.q3.le", 0xFFFF, 0x0007⟩,
   ⟨"tail.q3.be", 0xFFFF, 0x0017⟩, ⟨"tail.q2.le", 0xFFFF, 0x0008⟩, ⟨"tail.q2.be", 0xFFFF, 0x0018⟩] ++
  [⟨"tail.q1.le", 0xFFFF, 0x0009⟩, ⟨"tail.q1.be", 0xFFFF, 0x0019⟩, ⟨"remix", 0xFFFF, 0x000A⟩,
   ⟨"fetch32.le", 0xFFFF, 0x000B⟩, ⟨"fetch32.be", 0xFFFF, 0x001B⟩, ⟨"tail32.le", 0xFFFF, 0x000C⟩,
   ⟨"tail32.be", 0xFFFF, 0x001C⟩, ⟨"mixup.ab", 0xFF1F, 0x000D⟩, ⟨"mixup.ba", 0xFF1F, 0x010D⟩]

/-- A row matches a word when the word's masked bits are the row's pattern. -/
def OpcodeRow.admits (r : OpcodeRow) (w : BitVec 16) : Bool := w &&& r.mask == r.pattern

/-- The mnemonic of a command, as spec/opcode_table.json spells it. -/
def Instr.mnemonic : Instr → String
  | .hashLe => "hash.le"
  | .hashBe => "hash.be"
  | .init => "init"
  | .bulkSetup => "bulk.setup"
  | .bulkBlockLe => "bulk.block.le"
  | .bulkBlockBe => "bulk.block.be"
  | .bulkFold => "bulk.fold"
  | .tailQ4Le => "tail.q4.le"
  | .tailQ4Be => "tail.q4.be"
  | .tailQ3Le => "tail.q3.le"
  | .tailQ3Be => "tail.q3.be"
  | .tailQ2Le => "tail.q2.le"
  | .tailQ2Be => "tail.q2.be"
  | .tailQ1Le => "tail.q1.le"
  | .tailQ1Be => "tail.q1.be"
  | .remix => "remix"
  | .fetch32Le => "fetch32.le"
  | .fetch32Be => "fetch32.be"
  | .tail32Le => "tail32.le"
  | .tail32Be => "tail32.be"
  | .mixupAb _ => "mixup.ab"
  | .mixupBa _ => "mixup.ba"

/-! ## Assembler text (30_encoding.md R91, R93) -/

/-- The operand `q<K>` of MIXUP in assembler text (R91). -/
def primeName (k : BitVec 3) : String := "q" ++ toString k.toNat

/-- A command's line of assembler text (R91). -/
def Instr.text : Instr → String
  | .mixupAb k => "mixup.ab " ++ primeName k
  | .mixupBa k => "mixup.ba " ++ primeName k
  | i => i.mnemonic

/-- Every command without an operand. -/
def plainCommands : List Instr :=
  [.hashLe, .hashBe, .init, .bulkSetup, .bulkBlockLe, .bulkBlockBe, .bulkFold, .tailQ4Le, .tailQ4Be, .tailQ3Le, .tailQ3Be,
   .tailQ2Le, .tailQ2Be, .tailQ1Le, .tailQ1Be, .remix, .fetch32Le, .fetch32Be, .tail32Le, .tail32Be]

/-- The legal values of K (R84). -/
def primeIndices : List (BitVec 3) := [0, 1, 2, 3, 4, 5, 6]

/-- Every legal command: 34 words (30_encoding.md §8). -/
def legalCommands : List Instr := plainCommands ++ primeIndices.map .mixupAb ++ primeIndices.map .mixupBa

/-- Assembler text to command: the 34 lines of R91, and the pseudo-instruction `mixup q<K>`, which stands for
`mixup.ab q<K>` (R93). A comment is no part of the line. -/
def assemble (line : String) : Option Instr :=
  match legalCommands.find? fun i => i.text == line with
  | some i => some i
  | none => (primeIndices.find? fun k => "mixup " ++ primeName k == line).map .mixupAb

end Sys2Proof
end

