-- ==== Sys2Proof/Machine/State.lean ====
section
/-!
DEFINITION. The state of HDM as plain data (10_state.md), the reasons a step can stop, and the state after reset.
-/

namespace Sys2Proof.Machine

/-- The engine's pc (10_state.md R27): the micro-operation it executes at its next step. Values 1, 14 and 15 of the 4-bit
encoding never occur and have no constructor. -/
inductive Phase where
  | idle
  | init
  | bulkSetup
  | bulkBlock
  | bulkFold
  | tailQ4
  | tailQ3
  | tailQ2
  | tailQ1
  | remix
  | fetch32
  | tail32
  | mixup
  deriving DecidableEq, Repr

/-- STATUS.ECODE (60_exceptions.md R180). Codes 4..15 are never raised and have no constructor. -/
inductive ECode where
  | none
  | illegal
  | range
  | bus
  deriving DecidableEq, Repr

/-- The latch CUR: the decoded fields OP, E, K, X of the current command (10_state.md R28). -/
structure Cur where
  op : BitVec 4
  e : Bool
  k : BitVec 3
  x : Bool
  deriving DecidableEq, Repr

/-- A read request `MemRead(addr, size)` of the engine (20_memory.md R53); `size` is 1 or 4. -/
structure Request where
  addr : Nat
  size : Nat
  deriving DecidableEq, Repr

/-- The slots of the register window (10_state.md R21), the four reserved ones among them (R37). An access that is not a
full 64-bit access at a multiple of 8 is outside the port's contract and is not offered (R34; 93 U7; log 16). -/
inductive Reg where
  | cmd
  | status
  | addr
  | len
  | seed
  | ab
  | cd
  | p
  | n
  | w
  | res
  | eaddr
  | rsv60
  | rsv68
  | rsv70
  | rsv78
  deriving DecidableEq, Repr

/-- One coming action of the host or the memory, or a place where the engine takes its turn (60_exceptions.md R188;
assumption log 2). -/
inductive Event where
  /-- the engine's turn (43_hash_sequence.md R161) -/
  | engine
  /-- `rd r` (30_encoding.md R92) -/
  | regRead (r : Reg)
  /-- `wr r, v` (R92) -/
  | regWrite (r : Reg) (v : Dword)
  /-- `wait`: `rd STATUS` until BUSY = 0 (R92; log 18) -/
  | wait
  /-- the host stores a byte of the buffer memory (10_state.md R20) -/
  | memWrite (a : Nat) (v : Byte)
  /-- the memory begins to answer this request with a bus error (20_memory.md R53) -/
  | busFail (q : Request)
  /-- the memory stops answering this request with a bus error -/
  | busHeal (q : Request)
  /-- the reset input is asserted (70_reset_and_hazards.md R210) -/
  | assertReset
  /-- the reset input is released (R210) -/
  | releaseReset
  deriving DecidableEq, Repr

/-- The buffer memory (10_state.md R41): (address, byte) pairs, addresses strictly rising (`Memory.wf`). An unlisted address
holds no byte, and a request that needs one is answered with a bus error (20_memory.md R53; assumption log 6). -/
abbrev Memory := List Host.Cell

/-- Everything the spec gives the machine (10_state.md), and the model's own fields (assumption log 2, 8, 11). -/
structure State where
  /-- the parameters of the device, the constant store among them (R6, R32) -/
  params : Params
  /-- CMD (R30) -/
  cmd : BitVec 16
  /-- STATUS.BUSY (R29) -/
  busy : Bool
  /-- STATUS.DONE (R29) -/
  done : Bool
  /-- STATUS.ERR (R29) -/
  err : Bool
  /-- STATUS.OVR (R29) -/
  ovr : Bool
  /-- STATUS.ECODE (R29, R180) -/
  ecode : ECode
  /-- the phase (R27) -/
  phase : Phase
  /-- HSEQ (R28) -/
  hseq : Bool
  /-- ECUR (R28) -/
  ecur : Bool
  /-- STATUS.EPHASE (R29) -/
  ephase : Phase
  /-- the latch CUR (R28) -/
  cur : Cur
  /-- ADDR (R21) -/
  addr : Addr
  /-- LEN (R21) -/
  len : Dword
  /-- SEED (R21) -/
  seed : Dword
  /-- A (R22) -/
  a : Word
  /-- B (R22) -/
  b : Word
  /-- C (R23) -/
  c : Word
  /-- D (R23) -/
  d : Word
  /-- P (R25) -/
  p : Addr
  /-- N (R25) -/
  n : Dword
  /-- W (R24) -/
  w : Word
  /-- RES (R26) -/
  res : Dword
  /-- EADDR (R31) -/
  eaddr : Addr
  /-- ALIGNBUF (R33) -/
  alignbuf : Vector Byte 16
  /-- the reset input is asserted (R210) -/
  inReset : Bool
  /-- the buffer memory (R41) -/
  mem : Memory
  /-- requests answered with a bus error although every byte is held (R53) -/
  failing : List Request
  /-- MODEL. (address, value) pairs that bytes held earlier in the running command (R63) -/
  held : List (Nat × Byte)
  /-- MODEL. the counter that free values are applied to -/
  freeIx : Nat
  /-- MODEL. the requests issued so far, oldest first (R59) -/
  reads : List Request
  /-- MODEL. what the register port returned on the last host read (R34) -/
  rdata : Dword
  /-- MODEL. the coming actions; with none the engine takes its turn -/
  schedule : List Event
  deriving DecidableEq, Repr

/-- The reasons a step can stop. No state that a run reaches from reset stops, but for a host action outside the address
space. -/
inductive Fault where
  /-- Raised by `Event.memWrite` at an address at or above 2^ADDR_W, which does not exist (10_state.md R41). Safe. -/
  | noSuchAddress
  /-- Stuck: raised by `hash.le` and `hash.be` when HSEQ = 1 and the phase is outside HASH's sequence, for which
  43_hash_sequence.md R161 gives no micro-operation or no next phase (FETCH32, TAIL32, MIXUP, or IDLE). No run reaches
  such a state. Safe. -/
  | noNextPhase
  deriving DecidableEq, Repr

/-- The reasons a command has no meaning. -/
inductive Refusal where
  /-- An instruction with no meaning yet, by its mnemonic. No arm of `exec` answers it. Safe. -/
  | notModelled (mnemonic : String)
  /-- Raised by MIXUP with K = 7, which names no constant (30_encoding.md R84): the decoder never yields it (R87 (f)) and
  acceptance reports it as ILLEGAL. Safe. -/
  | illFormed
  deriving DecidableEq, Repr

/-- What a step answers. -/
abbrev Result := Host.Outcome State Fault Refusal

/-- The reset state of a device with parameters `p` (10_state.md R42): every register 0, nothing listed in memory.
ALIGNBUF is unspecified there; 0 is a DESIGN CHOICE (unsafe; assumption log 9). -/
def State.resetWith (p : Params) : State where
  params := p
  cmd := 0
  busy := false
  done := false
  err := false
  ovr := false
  ecode := .none
  phase := .idle
  hseq := false
  ecur := false
  ephase := .idle
  cur := ⟨0, false, 0, false⟩
  addr := 0
  len := 0
  seed := 0
  a := 0
  b := 0
  c := 0
  d := 0
  p := 0
  n := 0
  w := 0
  res := 0
  eaddr := 0
  alignbuf := Vector.replicate 16 0
  inReset := false
  mem := []
  failing := []
  held := []
  freeIx := 0
  reads := []
  rdata := 0
  schedule := []

/-- The machine right after reset (10_state.md R42, 70_reset_and_hazards.md R212), of the device with the recommended
parameters (assumption log 1). -/
def State.reset : State := State.resetWith Config.recommended

end Sys2Proof.Machine
end

