-- ==== Sys2Proof/Machine/Operands.lean ====
section
/-!
DEFINITION. The pure operand computations: arithmetic on words (00_scope.md R11 to R13), the assembly of words and tails
from bytes (40_fetch_tail.md R100 to R103), and the formulas of the mixer (41_mixer_bulk.md, 42_mixer_tail_final.md).
-/

namespace Sys2Proof.Machine

/-- `rotl32(x, r)` (00_scope.md R12): with r' = r mod 32, x when r' = 0, else (x << r') | (x >> (32 - r')). -/
def rotl32 (x : Word) (r : Nat) : Word :=
  if r % 32 = 0 then x else (x <<< (r % 32)) ||| (x >>> (32 - r % 32))

/-- `mul32x64(x, y)`, the exact 64-bit product (R13). -/
def mul32x64 (x y : Word) : Dword := x.setWidth 64 * y.setWidth 64

/-- `lo32(l)` = l[31:0] (R13). -/
def lo32 (l : Dword) : Word := l.extractLsb' 0 32

/-- `hi32(l)` = l[63:32] (R13). -/
def hi32 (l : Dword) : Word := l.extractLsb' 32 32

/-- `{hi, lo}` (R10). -/
def pair64 (hi lo : Word) : Dword := hi.setWidth 64 <<< 32 ||| lo.setWidth 64

/-- A value as an address register holds it: bits [ADDR_W-1:0] (10_state.md R34, R38; 20_memory.md R54). -/
def truncAddr (p : Params) (v : Dword) : Addr := BitVec.ofNat 64 (v.toNat % p.space)

/-! ## Words from bytes -/

/-- The byte at index `i` of the bytes a read delivered. Every caller's index lies inside the list. -/
def byteOf (bs : List Byte) (i : Nat) : Word := (bs.getD i 0).setWidth 32

/-- The word that four bytes b0..b3 at increasing addresses make (20_memory.md R50; 40_fetch_tail.md R100). -/
def assembleWord (e : ByteOrder) (bs : List Byte) : Word :=
  match e with
  | .little => byteOf bs 0 ||| byteOf bs 1 <<< 8 ||| byteOf bs 2 <<< 16 ||| byteOf bs 3 <<< 24
  | .big => byteOf bs 0 <<< 24 ||| byteOf bs 1 <<< 16 ||| byteOf bs 2 <<< 8 ||| byteOf bs 3

/-- The sum over i of zext_32(b_i) << shift(i), from index `i` on (40_fetch_tail.md R101, R102). -/
def shiftedSum (shift : Nat → Nat) : Nat → List Byte → Word
  | _, [] => 0
  | i, b :: bs => b.setWidth 32 <<< shift i + shiftedSum shift (i + 1) bs

/-- The word that a tail of 1 to 3 bytes makes (R101 little-endian; R102 big-endian by BE_TAIL_LAYOUT). -/
def assembleTail (layout : TailLayout) (e : ByteOrder) (bs : List Byte) : Word :=
  match e, layout with
  | .little, _ => shiftedSum (fun i => 8 * i) 0 bs
  | .big, .padLow => shiftedSum (fun i => 24 - 8 * i) 0 bs
  | .big, .rightJustified => shiftedSum (fun i => 8 * (bs.length - 1 - i)) 0 bs

/-! ## The mixer's formulas -/

/-- A of INIT: rotl32(LEN[31:0], S) + SEED[31:0] (41_mixer_bulk.md R120). -/
def initA (p : Params) (len seed : Dword) : Word := rotl32 (lo32 len) p.s.toNat + lo32 seed

/-- B of INIT: LEN[31:0] XOR SEED[63:32] (R120). -/
def initB (len seed : Dword) : Word := lo32 len ^^^ hi32 seed

/-- The four accumulator words (10_state.md R22, R23). -/
structure Acc where
  a : Word
  b : Word
  c : Word
  d : Word
  deriving DecidableEq, Repr

/-- BULK.SETUP: C <- ~A, D <- rotl32(B, 5) (R121). -/
def setupAcc (a b : Word) : Acc := ⟨a, b, ~~~a, rotl32 b 5⟩

/-- The block update of R123 with the words w0..w3, its statements in the order written: C reads the old B, D the old A. -/
def blockMix (p : Params) (w0 w1 w2 w3 : Word) (s : Acc) : Acc :=
  let c02 := w0 ^^^ rotl32 (w2 + s.c) 11
  let d13 := w1 + rotl32 (w3 + s.d) p.s.toNat
  { c := s.c ^^^ rotl32 (s.b + w1) 7
    d := s.d ^^^ rotl32 (s.a + w0) 3
    b := p.q[1] * (c02 + w3)
    a := p.q[0] * (d13 ^^^ w2) }

/-- The fold of R124, its statements in the order written: A and B read the new C and D. -/
def foldAcc (p : Params) (s : Acc) : Acc :=
  let c := s.c + s.a
  let d := s.d + s.b
  { c := c
    d := d
    a := s.a ^^^ p.q[6] * (rotl32 c 16 + d)
    b := s.b ^^^ p.q[5] * (c + rotl32 d 16) }

/-- `mixup32(x, y, v, q)` (42_mixer_tail_final.md R140): x is target_a, y is target_b. -/
def mixup32 (x y v q : Word) : Word × Word :=
  let l := mul32x64 (y + v) q
  (x ^^^ lo32 l, y + hi32 l)

/-- `remix32(a, b)` (R146): the new a and the 64-bit l. -/
def remix32 (p : Params) (a b : Word) : Word × Dword :=
  let a' := a ^^^ rotl32 b 13
  let l := pair64 b a' * p.p0
  (a', l ^^^ l >>> 41)

/-- Q[K]; K = 7 names no constant (30_encoding.md R84). -/
def primeAt (p : Params) (k : BitVec 3) : Option Word := p.q[k.toNat]?

end Sys2Proof.Machine
end

