-- ==== Sys2Proof/Machine/Flags.lean ====
section
/-!
DEFINITION. The flags of HDM. It has no arithmetic flags (10_state.md R40): no meaning computes a carry, zero or overflow
flag. Its only flags are those of STATUS (R29): the word a read returns, its write-1-to-clear, OVR, the end of a command,
and the line done_irq.
-/

namespace Sys2Proof.Machine

/-- The 4-bit encoding of a phase, equal to the OP code of its micro-operation (10_state.md R27). -/
def Phase.code : Phase → BitVec 4
  | .idle => 0
  | .init => 2
  | .bulkSetup => 3
  | .bulkBlock => 4
  | .bulkFold => 5
  | .tailQ4 => 6
  | .tailQ3 => 7
  | .tailQ2 => 8
  | .tailQ1 => 9
  | .remix => 10
  | .fetch32 => 11
  | .tail32 => 12
  | .mixup => 13

/-- The ECODE value of an error (60_exceptions.md R180). -/
def ECode.code : ECode → BitVec 4
  | .none => 0
  | .illegal => 1
  | .range => 2
  | .bus => 3

/-- A flag at bit `i` of a 64-bit register. -/
def flagAt (b : Bool) (i : Nat) : Dword := (BitVec.ofBool b).setWidth 64 <<< i

/-- A 4-bit field with its lowest bit at `i`. -/
def fieldAt (v : BitVec 4) (i : Nat) : Dword := v.setWidth 64 <<< i

/-- The 64-bit value of STATUS (10_state.md R29); bits [15:14] and [63:20] read 0. -/
def State.statusWord (s : State) : Dword :=
  flagAt s.busy 0 ||| flagAt s.done 1 ||| flagAt s.err 2 ||| flagAt s.ovr 3 ||| fieldAt s.ecode.code 4 |||
    fieldAt s.phase.code 8 ||| flagAt s.hseq 12 ||| flagAt s.ecur 13 ||| fieldAt s.ephase.code 16

/-- The output line done_irq, equal at all times to DONE OR ERR (60_exceptions.md R189). -/
def State.doneIrq (s : State) : Bool := s.done || s.err

/-- OVR <- 1 and nothing else: a host write dropped because BUSY = 1 (10_state.md R35). -/
def State.setOvr (s : State) : State := { s with ovr := true }

/-- DONE <- 0 (10_state.md R29). -/
def State.clearDone (s : State) : State := { s with done := false }

/-- ERR <- 0, ECODE <- 0, EPHASE <- 0 (10_state.md R29; 60_exceptions.md R191); EADDR keeps its value (R31). HDM has no
return from an error: this and the next command's acceptance are all that follows one. -/
def State.clearErr (s : State) : State := { s with err := false, ecode := .none, ephase := .idle }

/-- OVR <- 0 (10_state.md R29). -/
def State.clearOvr (s : State) : State := { s with ovr := false }

/-- A host write of `v` to STATUS (10_state.md R29): each of bits 1..3 that is 1 clears its flag; every other bit of `v` is
ignored. -/
def State.writeStatus (v : Dword) (s : State) : State :=
  let s := if v.getLsbD 1 then s.clearDone else s
  let s := if v.getLsbD 2 then s.clearErr else s
  if v.getLsbD 3 then s.clearOvr else s

/-- The end of a micro-operation command without an error (43_hash_sequence.md R161, HSEQ = 0). -/
def State.endCommand (s : State) : State := { s with busy := false, done := true, phase := .idle }

/-- The end of a HASH command without an error (R161, next phase IDLE). -/
def State.endHash (s : State) : State := { s.endCommand with hseq := false }

/-- phase <- X (00_scope.md R14). -/
def State.setPhase (ph : Phase) (s : State) : State := { s with phase := ph }

end Sys2Proof.Machine
end

