-- ==== Sys2Proof/Machine/Ops.lean ====
section
/-!
DEFINITION. The named operations over memory and registers: the memory and its answers (20_memory.md R53, R63), issuing the
engine's read requests (R57, R59, R182), the word fetcher and the tail reader (40_fetch_tail.md R100 to R104), register
writes, and the ONE operation that reports an error (60_exceptions.md R183, R184).
-/

namespace Sys2Proof.Machine

/-! ## The buffer memory -/

/-- The byte memory holds at `a`, if it holds one. -/
def Memory.read : Memory → Nat → Option Byte
  | [], _ => none
  | (x, v) :: m, a => if a = x then some v else Memory.read m a

/-- Memory after the byte `v` is stored at `a`; it keeps the canonical form. -/
def Memory.write : Memory → Nat → Byte → Memory
  | [], a, v => [(a, v)]
  | (x, y) :: m, a, v =>
    if a < x then (a, v) :: (x, y) :: m
    else if a = x then (a, v) :: m
    else (x, y) :: Memory.write m a v

/-- The canonical form: addresses strictly rising. An unlisted address holds no byte, so no entry is redundant. -/
def Memory.wf : Memory → Bool
  | [] => true
  | [_] => true
  | x :: y :: m => x.1 < y.1 && Memory.wf (y :: m)

/-- Every listed address is below `bound`. -/
def Memory.within (bound : Nat) (m : Memory) : Bool := m.all fun x => x.1 < bound

/-- The values that the byte at `a` held earlier in the running command, newest first. -/
def heldAt (held : List (Nat × Byte)) (a : Nat) : List Byte :=
  held.filterMap fun x => if x.1 = a then some x.2 else none

/-- The value of one byte read at `a`, or none for a bus error (20_memory.md R53). When the host has changed the byte while
the command runs, the read returns some value the byte held since acceptance (R63; 93 U5): which one is a free value. -/
def State.byteAt (s : State) (a : Nat) : Option Byte :=
  match Memory.read s.mem a with
  | none => none
  | some v =>
    match heldAt s.held a with
    | [] => some v
    | old => some ((v :: old).getD (Config.raceChoice s.freeIx a % (old.length + 1)) v)

/-- The `n` bytes from `a` on, in address order, or none when the memory does not hold one of them. -/
def State.bytesAt (s : State) (a : Nat) : Nat → Option (List Byte)
  | 0 => some []
  | n + 1 =>
    match s.byteAt a, State.bytesAt s (a + 1) n with
    | some v, some vs => some (v :: vs)
    | _, _ => none

/-- The memory's answer to `MemRead(addr, size)` (R53): the bytes, or none for a bus error. -/
def State.memRead (s : State) (q : Request) : Option (List Byte) :=
  if q ∈ s.failing then none else s.bytesAt q.addr q.size

/-! ## The engine's reads -/

/-- What issuing a list of requests gives: the bytes in address order, or the address of the failing request; and the
requests issued, up to and including a failing one. -/
inductive ReadOut where
  | ok (bytes : List Byte) (issued : List Request)
  | bus (addr : Nat) (issued : List Request)
  deriving DecidableEq, Repr

/-- Issue requests in order and stop at the first that fails (20_memory.md R59; 60_exceptions.md R182, R187 (4)). -/
def State.issue (s : State) : List Request → ReadOut
  | [] => .ok [] []
  | q :: qs =>
    match s.memRead q with
    | none => .bus q.addr [q]
    | some bs =>
      match State.issue s qs with
      | .ok more issued => .ok (bs ++ more) (q :: issued)
      | .bus a issued => .bus a (q :: issued)

/-- A word at `x` is read by single bytes: `x` is not a multiple of 4 and UNALIGNED_OK is false (20_memory.md R57). -/
def splitsWord (p : Params) (x : Nat) : Bool := x % 4 != 0 && !p.unalignedOk

/-- `n` single-byte requests in increasing address order (R57). -/
def byteRequests (x : Nat) : Nat → List Request
  | 0 => []
  | n + 1 => ⟨x, 1⟩ :: byteRequests (x + 1) n

/-- The requests that read the word at `x` (R57). -/
def wordRequests (p : Params) (x : Nat) : List Request := if splitsWord p x then byteRequests x 4 else [⟨x, 4⟩]

/-- The requests that read the block at `x`: its four words in order (41_mixer_bulk.md R122). -/
def blockRequests (p : Params) (x : Nat) : List Request :=
  wordRequests p x ++ wordRequests p (x + 4) ++ wordRequests p (x + 8) ++ wordRequests p (x + 12)

/-- The requests that read a tail of `n` bytes at `x`: for n = 4 those of a word (40_fetch_tail.md R101, R103, R104). -/
def tailRequests (p : Params) (x n : Nat) : List Request := if n = 4 then wordRequests p x else byteRequests x n

/-- Bytes stored into ALIGNBUF from index `i` on. -/
def stageFrom (i : Nat) (buf : Vector Byte 16) : List Byte → Vector Byte 16
  | [] => buf
  | v :: vs => stageFrom (i + 1) (buf.setIfInBounds i v) vs

/-- The reads of a micro-operation are done: they join the read history, the counter of the free values moves on, and the
bytes of a word read by single bytes stand in ALIGNBUF (10_state.md R33; 20_memory.md R57; assumption log 10). -/
def State.noteReads (staged : Bool) (bytes : List Byte) (issued : List Request) (s : State) : State :=
  { s with
    reads := s.reads ++ issued
    freeIx := s.freeIx + 1
    alignbuf := if staged then stageFrom 0 s.alignbuf bytes else s.alignbuf }

/-! ## Errors -/

/-- What a micro-operation gives: the state with its writes, or the error it raised (00_scope.md R14). -/
inductive MicroResult where
  | ok (s : State)
  /-- `raise RANGE(addr)` (60_exceptions.md R181): no read was issued -/
  | range (addr : Nat)
  /-- `raise BUS(addr)` (R182), with the requests issued -/
  | bus (addr : Nat) (issued : List Request)
  deriving DecidableEq, Repr

/-- Report an error: the one operation by which HDM takes an exception (60_exceptions.md R183, R184). There is no vector, no
mode change and no saved pc: ERR <- 1, and ECODE, EPHASE and, for RANGE and BUS, EADDR record it. `at?` is the address it
records; ILLEGAL records none. -/
def State.reportError (code : ECode) (ph : Phase) (at? : Option Nat) (s : State) : State :=
  { s with
    ecode := code
    eaddr := match at? with
      | none => s.eaddr
      | some x => truncAddr s.params (BitVec.ofNat 64 x)
    ephase := ph
    err := true }

/-- BUSY <- 0, HSEQ <- 0, phase <- IDLE: the end of a command by an error (R184). -/
def State.stopEngine (s : State) : State := { s with busy := false, hseq := false, phase := .idle }

/-- `raise ILLEGAL` at acceptance (R183): BUSY stays 0 and the phase stays IDLE. -/
def State.raiseIllegal (s : State) : State := s.reportError .illegal .idle none

/-- The end of a command whose micro-operation `ph` raised RANGE (R181, R184). -/
def State.raiseRange (ph : Phase) (x : Nat) (s : State) : State := (s.reportError .range ph (some x)).stopEngine

/-- The end of a command whose micro-operation `ph` raised BUS (R182, R184); the requests issued stay in the history. -/
def State.raiseBus (ph : Phase) (x : Nat) (issued : List Request) (s : State) : State :=
  ((s.noteReads false [] issued).reportError .bus ph (some x)).stopEngine

/-- The engine step of a micro-operation command (43_hash_sequence.md R161, HSEQ = 0): the writes and DONE, or the error and
none of the writes (60_exceptions.md R185). -/
def finishMicro (ph : Phase) (s : State) (r : MicroResult) : Result :=
  match r with
  | .ok t => .next t.endCommand
  | .range x => .next (s.raiseRange ph x)
  | .bus x issued => .next (s.raiseBus ph x issued)

/-! ## Register writes -/

/-- A <- a, B <- b. -/
def State.setAB (a b : Word) (s : State) : State := { s with a := a, b := b }

/-- A, B, C, D <- the accumulator words. -/
def State.setAcc (v : Acc) (s : State) : State := { s with a := v.a, b := v.b, c := v.c, d := v.d }

/-- The accumulator words. -/
def State.acc (s : State) : Acc := ⟨s.a, s.b, s.c, s.d⟩

/-- W <- v. -/
def State.setW (v : Word) (s : State) : State := { s with w := v }

/-- RES <- v. -/
def State.setRes (v : Dword) (s : State) : State := { s with res := v }

/-- P <- p mod 2^ADDR_W, N <- n. -/
def State.setPN (p : Addr) (n : Dword) (s : State) : State := { s with p := truncAddr s.params p, n := n }

/-- `k` bytes are consumed: P <- (P + k) mod 2^ADDR_W, N <- N - k (20_memory.md R54). -/
def State.advance (k : Nat) (s : State) : State := s.setPN (s.p + BitVec.ofNat 64 k) (s.n - BitVec.ofNat 64 k)

/-- "Mix v into (a, b) using q": (A, B) <- mixup32(A, B, v, q) (42_mixer_tail_final.md R140). -/
def State.mixAB (v q : Word) (s : State) : State :=
  let r := mixup32 s.a s.b v q
  s.setAB r.1 r.2

/-- "Mix v into (b, a) using q": (B, A) <- mixup32(B, A, v, q) (R140). -/
def State.mixBA (v q : Word) (s : State) : State :=
  let r := mixup32 s.b s.a v q
  s.setAB r.2 r.1

end Sys2Proof.Machine
end

