-- ==== Sys2Proof/Machine/MixerBulk.lean ====
section
/-!
DEFINITION. Mixer initialisation and bulk phase: INIT, BULK.SETUP, BULK.BLOCK, BULK.FOLD (41_mixer_bulk.md).
-/

namespace Sys2Proof.Machine

/-- INIT (41_mixer_bulk.md R120). ADDR + LEN is computed exactly. -/
def microInit (s : State) : MicroResult :=
  if s.addr.toNat + s.len.toNat > s.params.space then .range s.addr.toNat
  else .ok ((s.setAB (initA s.params s.len s.seed) (initB s.len s.seed)).setPN s.addr s.len)

/-- BULK.SETUP (R121). -/
def microBulkSetup (s : State) : MicroResult := .ok (s.setAcc (setupAcc s.a s.b))

/-- The accumulator after the block whose 16 bytes are `bs`, its words w0..w3 assembled from them (R122, R123). -/
def blockOfBytes (p : Params) (e : ByteOrder) (bs : List Byte) (v : Acc) : Acc :=
  blockMix p (assembleWord e bs) (assembleWord e (bs.drop 4)) (assembleWord e (bs.drop 8))
    (assembleWord e (bs.drop 12)) v

/-- BULK.BLOCK (R123): consume one 16-byte block. -/
def microBulkBlock (e : ByteOrder) (s : State) : MicroResult :=
  if s.n.toNat < 16 ∨ s.p.toNat + 16 > s.params.space then .range s.p.toNat
  else
    match s.issue (blockRequests s.params s.p.toNat) with
    | .bus x issued => .bus x issued
    | .ok bs issued =>
      .ok (((s.noteReads (splitsWord s.params s.p.toNat) bs issued).setAcc
        (blockOfBytes s.params e bs s.acc)).advance 16)

/-- BULK.FOLD (R124). P and N do not move. -/
def microBulkFold (s : State) : MicroResult := .ok (s.setAcc (foldAcc s.params s.acc))

/-- `init` -/
def execInit (s : State) : Result := finishMicro .init s (microInit s)

/-- `bulk.setup` -/
def execBulkSetup (s : State) : Result := finishMicro .bulkSetup s (microBulkSetup s)

/-- `bulk.block.le` -/
def execBulkBlockLe (s : State) : Result := finishMicro .bulkBlock s (microBulkBlock .little s)

/-- `bulk.block.be` -/
def execBulkBlockBe (s : State) : Result := finishMicro .bulkBlock s (microBulkBlock .big s)

/-- `bulk.fold` -/
def execBulkFold (s : State) : Result := finishMicro .bulkFold s (microBulkFold s)

end Sys2Proof.Machine
end

