-- ==== Sys2Proof/Machine/FetchTail.lean ====
section
/-!
DEFINITION. The word fetcher and the bounded tail reader, FETCH32 and TAIL32 (40_fetch_tail.md).
-/

namespace Sys2Proof.Machine

/-- FETCH32 (40_fetch_tail.md R105): W <- fetch32(P, E). P and N do not move. -/
def microFetch32 (e : ByteOrder) (s : State) : MicroResult :=
  if s.n.toNat < 4 ∨ s.p.toNat + 4 > s.params.space then .range s.p.toNat
  else
    match s.issue (wordRequests s.params s.p.toNat) with
    | .bus x issued => .bus x issued
    | .ok bs issued =>
      .ok ((s.noteReads (splitsWord s.params s.p.toNat) bs issued).setW (assembleWord e bs))

/-- The word `tail32(x, n, E)` makes of the bytes it read: for n = 4 that of fetch32 (R101, R102, R103). -/
def tailWord (p : Params) (e : ByteOrder) (n : Nat) (bs : List Byte) : Word :=
  if n = 4 then assembleWord e bs else assembleTail p.beTail e bs

/-- TAIL32 (R106): W <- tail32(P, N, E). P and N do not move. -/
def microTail32 (e : ByteOrder) (s : State) : MicroResult :=
  if s.n.toNat < 1 ∨ s.n.toNat > 4 ∨ s.p.toNat + s.n.toNat > s.params.space then .range s.p.toNat
  else
    match s.issue (tailRequests s.params s.p.toNat s.n.toNat) with
    | .bus x issued => .bus x issued
    | .ok bs issued =>
      .ok ((s.noteReads (s.n.toNat == 4 && splitsWord s.params s.p.toNat) bs issued).setW
        (tailWord s.params e s.n.toNat bs))

/-- `fetch32.le` -/
def execFetch32Le (s : State) : Result := finishMicro .fetch32 s (microFetch32 .little s)

/-- `fetch32.be` -/
def execFetch32Be (s : State) : Result := finishMicro .fetch32 s (microFetch32 .big s)

/-- `tail32.le` -/
def execTail32Le (s : State) : Result := finishMicro .tail32 s (microTail32 .little s)

/-- `tail32.be` -/
def execTail32Be (s : State) : Result := finishMicro .tail32 s (microTail32 .big s)

end Sys2Proof.Machine
end

