-- ==== Sys2Proof/Machine/MixerTail.lean ====
section
/-!
DEFINITION. The mixing step MIXUP, the tail cascade TAIL.Q4 to TAIL.Q1 and the finalisation REMIX
(42_mixer_tail_final.md).
-/

namespace Sys2Proof.Machine

/-- One step of the cascade that reads a whole word (R141, R142, R143): RANGE above the bucket's high end, nothing below its
low end, else mix the word at P and consume 4 bytes. -/
def microTailWord (hi lo : Nat) (mix : Word → State → State) (e : ByteOrder) (s : State) : MicroResult :=
  if s.n.toNat > hi then .range s.p.toNat
  else if s.n.toNat < lo then .ok s
  else if s.p.toNat + 4 > s.params.space then .range s.p.toNat
  else
    match s.issue (wordRequests s.params s.p.toNat) with
    | .bus x issued => .bus x issued
    | .ok bs issued =>
      .ok ((mix (assembleWord e bs) (s.noteReads (splitsWord s.params s.p.toNat) bs issued)).advance 4)

/-- TAIL.Q4 (42_mixer_tail_final.md R141): bucket 13..16, into (A, B) with Q[4]. -/
def microTailQ4 (e : ByteOrder) (s : State) : MicroResult :=
  microTailWord 16 13 (fun v t => t.mixAB v s.params.q[4]) e s

/-- TAIL.Q3 (R142): bucket 9..12, into (B, A) with Q[3]. -/
def microTailQ3 (e : ByteOrder) (s : State) : MicroResult :=
  microTailWord 12 9 (fun v t => t.mixBA v s.params.q[3]) e s

/-- TAIL.Q2 (R143): bucket 5..8, into (A, B) with Q[2]. -/
def microTailQ2 (e : ByteOrder) (s : State) : MicroResult :=
  microTailWord 8 5 (fun v t => t.mixAB v s.params.q[2]) e s

/-- TAIL.Q1 (R144): bucket 1..4, the bounded tail read, into (B, A) with Q[1]; N = 0 changes nothing and reads nothing
(90_conflicts.md C1). -/
def microTailQ1 (e : ByteOrder) (s : State) : MicroResult :=
  if s.n.toNat > 4 then .range s.p.toNat
  else if s.n.toNat < 1 then .ok s
  else if s.p.toNat + s.n.toNat > s.params.space then .range s.p.toNat
  else
    match s.issue (tailRequests s.params s.p.toNat s.n.toNat) with
    | .bus x issued => .bus x issued
    | .ok bs issued =>
      .ok (((s.noteReads (s.n.toNat == 4 && splitsWord s.params s.p.toNat) bs issued).mixBA
        (tailWord s.params e s.n.toNat bs) s.params.q[1]).advance s.n.toNat)

/-- REMIX (R147): (A, RES) <- remix32(A, B). -/
def microRemix (s : State) : MicroResult :=
  let r := remix32 s.params s.a s.b
  .ok ((s.setAB r.1 s.b).setRes r.2)

/-- MIXUP with X = 0 (R145): (A, B) <- mixup32(A, B, W, Q[K]). -/
def microMixupAb (q : Word) (s : State) : MicroResult := .ok (s.mixAB s.w q)

/-- MIXUP with X = 1 (R145): (B, A) <- mixup32(B, A, W, Q[K]). -/
def microMixupBa (q : Word) (s : State) : MicroResult := .ok (s.mixBA s.w q)

/-- `tail.q4.le` -/
def execTailQ4Le (s : State) : Result := finishMicro .tailQ4 s (microTailQ4 .little s)

/-- `tail.q4.be` -/
def execTailQ4Be (s : State) : Result := finishMicro .tailQ4 s (microTailQ4 .big s)

/-- `tail.q3.le` -/
def execTailQ3Le (s : State) : Result := finishMicro .tailQ3 s (microTailQ3 .little s)

/-- `tail.q3.be` -/
def execTailQ3Be (s : State) : Result := finishMicro .tailQ3 s (microTailQ3 .big s)

/-- `tail.q2.le` -/
def execTailQ2Le (s : State) : Result := finishMicro .tailQ2 s (microTailQ2 .little s)

/-- `tail.q2.be` -/
def execTailQ2Be (s : State) : Result := finishMicro .tailQ2 s (microTailQ2 .big s)

/-- `tail.q1.le` -/
def execTailQ1Le (s : State) : Result := finishMicro .tailQ1 s (microTailQ1 .little s)

/-- `tail.q1.be` -/
def execTailQ1Be (s : State) : Result := finishMicro .tailQ1 s (microTailQ1 .big s)

/-- `remix` -/
def execRemix (s : State) : Result := finishMicro .remix s (microRemix s)

/-- `mixup.ab q<K>`; K = 7 is no command (30_encoding.md R87 (f)). -/
def execMixupAb (k : BitVec 3) (s : State) : Result :=
  match primeAt s.params k with
  | some q => finishMicro .mixup s (microMixupAb q s)
  | none => .refused .illFormed

/-- `mixup.ba q<K>`; K = 7 is no command (R87 (f)). -/
def execMixupBa (k : BitVec 3) (s : State) : Result :=
  match primeAt s.params k with
  | some q => finishMicro .mixup s (microMixupBa q s)
  | none => .refused .illFormed

end Sys2Proof.Machine
end

