-- ==== Sys2Proof/Machine/Hash.lean ====
section
/-!
DEFINITION. The HASH command and the sequencer (43_hash_sequence.md). HASH runs one micro-operation per engine step (R160),
so the meaning of `hash.le` and `hash.be` is that step: the micro-operation the phase names and the move to the next phase
(R161; assumption log 3).
-/

namespace Sys2Proof.Machine

/-- The micro-operation that a phase of HASH's sequence names (R160); the other phases name none inside HASH. -/
def hashMicro (e : ByteOrder) (ph : Phase) (s : State) : Option MicroResult :=
  match ph with
  | .init => some (microInit s)
  | .bulkSetup => some (microBulkSetup s)
  | .bulkBlock => some (microBulkBlock e s)
  | .bulkFold => some (microBulkFold s)
  | .tailQ4 => some (microTailQ4 e s)
  | .tailQ3 => some (microTailQ3 e s)
  | .tailQ2 => some (microTailQ2 e s)
  | .tailQ1 => some (microTailQ1 e s)
  | .remix => some (microRemix s)
  | .idle | .fetch32 | .tail32 | .mixup => none

/-- `next(phase)` of R161 in the state after the micro-operation; LEN and N are compared as 64-bit unsigned numbers. -/
def nextPhase (ph : Phase) (s : State) : Phase :=
  match ph with
  | .init => if s.len.toNat > 16 then .bulkSetup else .tailQ4
  | .bulkSetup => .bulkBlock
  | .bulkBlock => if s.n.toNat ≥ 16 then .bulkBlock else .bulkFold
  | .bulkFold => .tailQ4
  | .tailQ4 => .tailQ3
  | .tailQ3 => .tailQ2
  | .tailQ2 => .tailQ1
  | .tailQ1 => .remix
  | .remix | .idle | .fetch32 | .tail32 | .mixup => .idle

/-- The move after a micro-operation of HASH (R161): to the next phase, and after REMIX the end of the command. -/
def hashAdvance (ph : Phase) (s : State) : State :=
  match nextPhase ph s with
  | .idle => s.endHash
  | next => s.setPhase next

/-- One engine step of HASH (R161, HSEQ = 1). -/
def hashStep (e : ByteOrder) (s : State) : Result :=
  match hashMicro e s.phase s with
  | none => .fault .noNextPhase
  | some (.ok t) => .next (hashAdvance s.phase t)
  | some (.range x) => .next (s.raiseRange s.phase x)
  | some (.bus x issued) => .next (s.raiseBus s.phase x issued)

/-- `hash.le` -/
def execHashLe (s : State) : Result := hashStep .little s

/-- `hash.be` -/
def execHashBe (s : State) : Result := hashStep .big s

end Sys2Proof.Machine
end

