-- ==== Sys2Proof/Machine/Dispatch.lean ====
section
/-!
DEFINITION. The meaning of every command: one engine step of it (43_hash_sequence.md R161).
-/

namespace Sys2Proof.Machine

def exec (i : Instr) (s : State) : Host.Outcome State Fault Refusal :=
  match i with
  | .hashLe => Sys2Proof.Machine.execHashLe s
  | .hashBe => Sys2Proof.Machine.execHashBe s
  | .init => Sys2Proof.Machine.execInit s
  | .bulkSetup => Sys2Proof.Machine.execBulkSetup s
  | .bulkBlockLe => Sys2Proof.Machine.execBulkBlockLe s
  | .bulkBlockBe => Sys2Proof.Machine.execBulkBlockBe s
  | .bulkFold => Sys2Proof.Machine.execBulkFold s
  | .tailQ4Le => Sys2Proof.Machine.execTailQ4Le s
  | .tailQ4Be => Sys2Proof.Machine.execTailQ4Be s
  | .tailQ3Le => Sys2Proof.Machine.execTailQ3Le s
  | .tailQ3Be => Sys2Proof.Machine.execTailQ3Be s
  | .tailQ2Le => Sys2Proof.Machine.execTailQ2Le s
  | .tailQ2Be => Sys2Proof.Machine.execTailQ2Be s
  | .tailQ1Le => Sys2Proof.Machine.execTailQ1Le s
  | .tailQ1Be => Sys2Proof.Machine.execTailQ1Be s
  | .remix => Sys2Proof.Machine.execRemix s
  | .fetch32Le => Sys2Proof.Machine.execFetch32Le s
  | .fetch32Be => Sys2Proof.Machine.execFetch32Be s
  | .tail32Le => Sys2Proof.Machine.execTail32Le s
  | .tail32Be => Sys2Proof.Machine.execTail32Be s
  | .mixupAb k => Sys2Proof.Machine.execMixupAb k s
  | .mixupBa k => Sys2Proof.Machine.execMixupBa k s

end Sys2Proof.Machine
end

