-- ==== Sys2Proof/Machine/HostPort.lean ====
section
/-!
DEFINITION. What the host and the memory do to the machine: command acceptance (30_encoding.md R90), the register port
(10_state.md R34 to R38), reset (70_reset_and_hazards.md R210), writes of the buffer memory (20_memory.md R63), and the
host's operations and pseudo-instructions (30_encoding.md R92, R93).
-/

namespace Sys2Proof.Machine

/-! ## Command acceptance -/

/-- The phase that acceptance of a legal command sets: INIT for HASH, else OP (30_encoding.md R90; 10_state.md R27). -/
def startPhase : Instr → Phase
  | .hashLe | .hashBe => .init
  | .init => .init
  | .bulkSetup => .bulkSetup
  | .bulkBlockLe | .bulkBlockBe => .bulkBlock
  | .bulkFold => .bulkFold
  | .tailQ4Le | .tailQ4Be => .tailQ4
  | .tailQ3Le | .tailQ3Be => .tailQ3
  | .tailQ2Le | .tailQ2Be => .tailQ2
  | .tailQ1Le | .tailQ1Be => .tailQ1
  | .remix => .remix
  | .fetch32Le | .fetch32Be => .fetch32
  | .tail32Le | .tail32Be => .tail32
  | .mixupAb _ | .mixupBa _ => .mixup

/-- OP = 0x1 (R82). -/
def isHash : Instr → Bool
  | .hashLe | .hashBe => true
  | .init | .bulkSetup | .bulkBlockLe | .bulkBlockBe | .bulkFold | .tailQ4Le | .tailQ4Be | .tailQ3Le | .tailQ3Be
  | .tailQ2Le | .tailQ2Be | .tailQ1Le | .tailQ1Be | .remix | .fetch32Le | .fetch32Be | .tail32Le | .tail32Be
  | .mixupAb _ | .mixupBa _ => false

/-- What acceptance writes whether or not the word is legal (R90): CMD, and DONE, ERR, ECODE, EPHASE cleared. -/
def State.noteCommand (v : Dword) (s : State) : State :=
  { s with cmd := v.extractLsb' 0 16, done := false, err := false, ecode := .none, ephase := .idle }

/-- What acceptance of a legal command writes besides (R90): CUR, ECUR, BUSY, HSEQ and the phase. No byte has yet changed
during it (20_memory.md R63). -/
def State.startCommand (v : Dword) (i : Instr) (s : State) : State :=
  { s with
    cur := ⟨opField v, eField v, kField v, xField v⟩
    ecur := eField v
    busy := true
    hseq := isHash i
    phase := startPhase i
    held := [] }

/-- Command acceptance: the host writes `v` to CMD while BUSY = 0 (R90). -/
def State.acceptCommand (v : Dword) (s : State) : State :=
  match decodeCommand v with
  | .illegal _ => (s.noteCommand v).raiseIllegal
  | .legal i => (s.noteCommand v).startCommand v i

/-! ## The register port -/

/-- A slot's offset in the register window (10_state.md R21). -/
def Reg.offset : Reg → Nat
  | .cmd => 0x00
  | .status => 0x08
  | .addr => 0x10
  | .len => 0x18
  | .seed => 0x20
  | .ab => 0x28
  | .cd => 0x30
  | .p => 0x38
  | .n => 0x40
  | .w => 0x48
  | .res => 0x50
  | .eaddr => 0x58
  | .rsv60 => 0x60
  | .rsv68 => 0x68
  | .rsv70 => 0x70
  | .rsv78 => 0x78

/-- The value a host read of a slot returns (R34, R36, R37). -/
def State.readReg (s : State) (r : Reg) : Dword :=
  match r with
  | .cmd => s.cmd.setWidth 64
  | .status => s.statusWord
  | .addr => s.addr
  | .len => s.len
  | .seed => s.seed
  | .ab => pair64 s.b s.a
  | .cd => pair64 s.d s.c
  | .p => s.p
  | .n => s.n
  | .w => s.w.setWidth 64
  | .res => s.res
  | .eaddr => s.eaddr
  | .rsv60 | .rsv68 | .rsv70 | .rsv78 => 0

/-- A host write of `v` to a slot while BUSY = 0 (R34, R29, R90, R37). -/
def State.storeReg (r : Reg) (v : Dword) (s : State) : State :=
  match r with
  | .cmd => s.acceptCommand v
  | .status => s.writeStatus v
  | .addr => { s with addr := truncAddr s.params v }
  | .len => { s with len := v }
  | .seed => { s with seed := v }
  | .ab => { s with a := lo32 v, b := hi32 v }
  | .cd => { s with c := lo32 v, d := hi32 v }
  | .p => { s with p := truncAddr s.params v }
  | .n => { s with n := v }
  | .w => { s with w := lo32 v }
  | .res | .eaddr | .rsv60 | .rsv68 | .rsv70 | .rsv78 => s

/-- A host write of `v` to a slot: while reset is asserted it has no effect (70_reset_and_hazards.md R210); while BUSY = 1
any write but one to STATUS is dropped and sets OVR (10_state.md R35). -/
def State.hostWrite (r : Reg) (v : Dword) (s : State) : State :=
  if s.inReset then s
  else if s.busy = true ∧ r ≠ .status then s.setOvr
  else s.storeReg r v

/-- The value the port returns: 0 while reset is asserted (70_reset_and_hazards.md R210). -/
def State.portValue (s : State) (r : Reg) : Dword := if s.inReset then 0 else s.readReg r

/-- A host read of a slot: the port returns its value, and nothing else changes. -/
def State.hostRead (r : Reg) (s : State) : State := { s with rdata := s.portValue r }

/-- `wait` (30_encoding.md R92): the host reads STATUS; while BUSY = 1 the engine takes a turn and the host polls again
(assumption log 18). -/
def State.poll (s : State) : State :=
  let t := s.hostRead .status
  if t.rdata.getLsbD 0 then { t with schedule := .engine :: .wait :: t.schedule } else t

/-! ## The buffer memory and reset -/

/-- The host stores a byte of the buffer memory. While a command runs, the value it replaces is one that a racing read may
still return (20_memory.md R63). -/
def State.bufferWrite (x : Nat) (v : Byte) (s : State) : State :=
  { s with
    mem := Memory.write s.mem x v
    held := match s.busy, Memory.read s.mem x with
      | true, some old => (x, old) :: s.held
      | _, _ => s.held }

/-- The reset input is asserted (70_reset_and_hazards.md R210, R211): every piece of state goes to its reset value, but for
the parameters, ALIGNBUF, which is unspecified, and what is not the device's: the memory, the histories and the schedule. -/
def State.assertReset (s : State) : State :=
  { State.resetWith s.params with
    alignbuf := Config.alignbufAfterReset s.freeIx
    inReset := true
    mem := s.mem
    failing := s.failing
    freeIx := s.freeIx + 1
    reads := s.reads
    rdata := s.rdata
    schedule := s.schedule }

/-- The reset input is released (R210): HDM is idle and accepts a command. -/
def State.releaseReset (s : State) : State := { s with inReset := false }

/-- The command word `v` as the next thing the engine runs: HDM fetches nothing from memory (20_memory.md R65), so a command
is placed by the host's CMD write, accepted while the device is idle and out of reset; the engine's turn comes next
(assumption log 4). -/
def State.placeCommand (v : Dword) (s : State) : State :=
  let t := State.acceptCommand v { s with busy := false, inReset := false }
  { t with schedule := .engine :: t.schedule }

/-! ## Host programs -/

/-- The pseudo-instructions of 30_encoding.md R93, and `wr`, `rd`, `wait` of R92. -/
inductive Pseudo where
  | wr (r : Reg) (v : Dword)
  | rd (r : Reg)
  | wait
  | run (i : Instr)
  | mixup (k : BitVec 3)
  | tailLe
  | tailBe
  | clr
  | hashfnLe (a l s : Dword)
  | hashfnBe (a l s : Dword)
  deriving DecidableEq, Repr

/-- A command line: the host write `wr CMD, <encoding>` (R91). -/
def commandLine (i : Instr) : Event := .regWrite .cmd (commandValue i)

/-- `run <cmd>` is the command and then `wait` (R93). -/
def runLine (i : Instr) : List Event := [commandLine i, .wait]

/-- What a pseudo-instruction stands for (R93). -/
def Pseudo.expand : Pseudo → List Event
  | .wr r v => [.regWrite r v]
  | .rd r => [.regRead r]
  | .wait => [.wait]
  | .run i => runLine i
  | .mixup k => [commandLine (.mixupAb k)]
  | .tailLe => runLine .tailQ4Le ++ runLine .tailQ3Le ++ runLine .tailQ2Le ++ runLine .tailQ1Le
  | .tailBe => runLine .tailQ4Be ++ runLine .tailQ3Be ++ runLine .tailQ2Be ++ runLine .tailQ1Be
  | .clr => [.regWrite .status 0xE]
  | .hashfnLe a l s =>
    [.regWrite .addr a, .regWrite .len l, .regWrite .seed s] ++ runLine .hashLe ++ [.regRead .res]
  | .hashfnBe a l s =>
    [.regWrite .addr a, .regWrite .len l, .regWrite .seed s] ++ runLine .hashBe ++ [.regRead .res]

/-- A host program: its lines in order. -/
def hostProgram (ls : List Pseudo) : List Event := ls.flatMap Pseudo.expand

end Sys2Proof.Machine
end

