-- ==== Sys2Proof/Machine/Engine.lean ====
section
/-!
DEFINITION. The engine's turn (43_hash_sequence.md R161) and the turn of each coming action.
-/

namespace Sys2Proof.Machine

/-- The command whose step the engine executes next (R161), by the phase, HSEQ and the latch CUR: inside HASH it is HASH with
the E of CUR; outside, the micro-operation that the phase names, with the E, K and X of CUR. The phase IDLE names none
(10_state.md R27). -/
def commandAt (ph : Phase) (hseq : Bool) (c : Cur) : Option Instr :=
  match ph, hseq with
  | .idle, _ => none
  | _, true => some (if c.e then .hashBe else .hashLe)
  | .init, false => some .init
  | .bulkSetup, false => some .bulkSetup
  | .bulkBlock, false => some (if c.e then .bulkBlockBe else .bulkBlockLe)
  | .bulkFold, false => some .bulkFold
  | .tailQ4, false => some (if c.e then .tailQ4Be else .tailQ4Le)
  | .tailQ3, false => some (if c.e then .tailQ3Be else .tailQ3Le)
  | .tailQ2, false => some (if c.e then .tailQ2Be else .tailQ2Le)
  | .tailQ1, false => some (if c.e then .tailQ1Be else .tailQ1Le)
  | .remix, false => some .remix
  | .fetch32, false => some (if c.e then .fetch32Be else .fetch32Le)
  | .tail32, false => some (if c.e then .tail32Be else .tail32Le)
  | .mixup, false => some (if c.x then .mixupBa c.k else .mixupAb c.k)

/-- The command whose step the engine executes next. -/
def State.currentInstr (s : State) : Option Instr := commandAt s.phase s.hseq s.cur

/-- The engine's turn: with BUSY = 1 it executes one micro-operation; with BUSY = 0, in phase IDLE or while reset is asserted
it has no step and nothing changes (R161; 60_exceptions.md R199; 70_reset_and_hazards.md R210; assumption log 5). -/
def State.engineTurn (s : State) : Result :=
  if s.busy = true ∧ s.inReset = false then
    match s.currentInstr with
    | some i => exec i s
    | none => .next s
  else .next s

/-- The turn of one coming action, already taken off the schedule. -/
def State.takeTurn (e : Event) (s : State) : Result :=
  match e with
  | .engine => s.engineTurn
  | .regRead r => .next (s.hostRead r)
  | .regWrite r v => .next (s.hostWrite r v)
  | .wait => .next s.poll
  | .memWrite x v => if x < s.params.space then .next (s.bufferWrite x v) else .fault .noSuchAddress
  | .busFail q => .next { s with failing := q :: s.failing }
  | .busHeal q => .next { s with failing := s.failing.filter (· ≠ q) }
  | .assertReset => .next s.assertReset
  | .releaseReset => .next s.releaseReset

end Sys2Proof.Machine
end

