-- ==== Sys2Proof/Machine/Step.lean ====
section
/-!
DEFINITION. One step of the machine: one coming action of host or memory, or one step of the engine
(60_exceptions.md R188).
-/

namespace Sys2Proof.Machine

/-- One step: the next action of the schedule, and with none the engine's turn. -/
def step (s : State) : Host.Outcome State Fault Refusal :=
  match s.schedule with
  | [] => s.engineTurn
  | e :: es => State.takeTurn e { s with schedule := es }

/-- `s` with the command of `nbits` bits `w` accepted, so that the very next step runs it (assumption log 4). -/
def State.withFetchWord (s : State) (nbits w : Nat) : State := s.placeCommand (BitVec.ofNat 64 (w % 2 ^ nbits))

end Sys2Proof.Machine
end

