-- ==== Sys2Proof/Safety.lean ====
section
/-!
DEFINITION. The terms that claims use: what the memory holds, the invariant of the machine, the requests a command may issue,
and the hash as a function of its inputs (43_hash_sequence.md R160), apart from the machine that computes it.
-/

namespace Sys2Proof.Machine

/-! ## What the memory delivers -/

/-- The memory holds the bytes `bs` from address `x` on. -/
def Memory.holds (m : Memory) (x : Nat) (bs : List Byte) : Prop :=
  ∀ (i : Nat) (h : i < bs.length), Memory.read m (x + i) = some bs[i]

/-- No failing request begins in `[x, x + k)`. -/
def State.answersAll (s : State) (x k : Nat) : Prop := ∀ q ∈ s.failing, ¬(x ≤ q.addr ∧ q.addr < x + k)

/-- Every read in `[x, x + bs.length)` is answered, with the bytes `bs`: the memory holds them, no request there fails, and
the host has changed none of them during the command (20_memory.md R63 (b)). -/
def State.delivers (s : State) (x : Nat) (bs : List Byte) : Prop :=
  Memory.holds s.mem x bs ∧ s.answersAll x bs.length ∧ ∀ y ∈ s.held, ¬(x ≤ y.1 ∧ y.1 < x + bs.length)

/-- The addresses of the bytes that requests ask for, in order. -/
def askedBytes (qs : List Request) : List Nat := qs.flatMap fun q => List.range' q.addr q.size

/-! ## Runs -/

/-- `k` steps from `s` lead to `t`, with no fault and no refusal on the way. -/
def runsTo (k : Nat) (s t : State) : Prop := Host.Core.run Sys2Proof.core k s = .next t

/-- The commands one after the other, each accepted and then run for its one engine step (60_exceptions.md R198). -/
def runCommands : List Instr → State → Result
  | [], s => .next s
  | i :: is, s =>
    match exec i (s.acceptCommand (commandValue i)) with
    | .next t => runCommands is t
    | stop => stop

/-! ## Commands by their E bit -/

/-- The HASH command of a variant. -/
def hashCommand : ByteOrder → Instr
  | .little => .hashLe
  | .big => .hashBe

/-- BULK.BLOCK of a variant. -/
def blockCommand : ByteOrder → Instr
  | .little => .bulkBlockLe
  | .big => .bulkBlockBe

/-- TAIL.Q4 of a variant. -/
def tailQ4Command : ByteOrder → Instr
  | .little => .tailQ4Le
  | .big => .tailQ4Be

/-- TAIL.Q3 of a variant. -/
def tailQ3Command : ByteOrder → Instr
  | .little => .tailQ3Le
  | .big => .tailQ3Be

/-- TAIL.Q2 of a variant. -/
def tailQ2Command : ByteOrder → Instr
  | .little => .tailQ2Le
  | .big => .tailQ2Be

/-- TAIL.Q1 of a variant. -/
def tailQ1Command : ByteOrder → Instr
  | .little => .tailQ1Le
  | .big => .tailQ1Be

/-- FETCH32 of a variant. -/
def fetchCommand : ByteOrder → Instr
  | .little => .fetch32Le
  | .big => .fetch32Be

/-- TAIL32 of a variant. -/
def tail32Command : ByteOrder → Instr
  | .little => .tail32Le
  | .big => .tail32Be

/-- The micro-operation command that a phase of HASH's sequence names (43_hash_sequence.md R160). -/
def microCommand (e : ByteOrder) : Phase → Option Instr
  | .init => some .init
  | .bulkSetup => some .bulkSetup
  | .bulkBlock => some (blockCommand e)
  | .bulkFold => some .bulkFold
  | .tailQ4 => some (tailQ4Command e)
  | .tailQ3 => some (tailQ3Command e)
  | .tailQ2 => some (tailQ2Command e)
  | .tailQ1 => some (tailQ1Command e)
  | .remix => some .remix
  | .idle | .fetch32 | .tail32 | .mixup => none

/-- The commands that do step by step what HASH does for a buffer of `len` bytes (R160, R163). -/
def hashCommands (e : ByteOrder) (len : Nat) : List Instr :=
  [.init] ++
    (if 16 < len then [.bulkSetup] ++ List.replicate (len / 16) (blockCommand e) ++ [.bulkFold] else []) ++
    [tailQ4Command e, tailQ3Command e, tailQ2Command e, tailQ1Command e, .remix]

/-- The `next` table of R161, with LEN and with N after the step. -/
def hashNext (len n : Nat) : Phase → Phase
  | .init => if len > 16 then .bulkSetup else .tailQ4
  | .bulkSetup => .bulkBlock
  | .bulkBlock => if n ≥ 16 then .bulkBlock else .bulkFold
  | .bulkFold => .tailQ4
  | .tailQ4 => .tailQ3
  | .tailQ3 => .tailQ2
  | .tailQ2 => .tailQ1
  | .tailQ1 => .remix
  | .remix | .idle | .fetch32 | .tail32 | .mixup => .idle

/-! ## How a command can end -/

/-- A micro-operation command's end without an error (43_hash_sequence.md R161, HSEQ = 0). -/
def endedOk (s : State) : State := { s with busy := false, done := true, phase := .idle }

/-- A command's end with an error: the assignments of 60_exceptions.md R184. -/
def endedBy (code : ECode) (ph : Phase) (x : Addr) (s : State) : State :=
  { s with ecode := code, eaddr := x, ephase := ph, err := true, busy := false, hseq := false, phase := .idle }

/-- The bound check of a micro-operation fails: the list of 60_exceptions.md R181. HASH has the check of the
micro-operation its phase names. -/
def rangeFails (i : Instr) (s : State) : Prop :=
  match i with
  | .init => s.addr.toNat + s.len.toNat > s.params.space
  | .bulkBlockLe | .bulkBlockBe => s.n.toNat < 16 ∨ s.p.toNat + 16 > s.params.space
  | .tailQ4Le | .tailQ4Be => s.n.toNat > 16 ∨ s.n.toNat ≥ 13 ∧ s.p.toNat + 4 > s.params.space
  | .tailQ3Le | .tailQ3Be => s.n.toNat > 12 ∨ s.n.toNat ≥ 9 ∧ s.p.toNat + 4 > s.params.space
  | .tailQ2Le | .tailQ2Be => s.n.toNat > 8 ∨ s.n.toNat ≥ 5 ∧ s.p.toNat + 4 > s.params.space
  | .tailQ1Le | .tailQ1Be => s.n.toNat > 4 ∨ s.n.toNat ≥ 1 ∧ s.p.toNat + s.n.toNat > s.params.space
  | .fetch32Le | .fetch32Be => s.n.toNat < 4 ∨ s.p.toNat + 4 > s.params.space
  | .tail32Le | .tail32Be => s.n.toNat < 1 ∨ s.n.toNat > 4 ∨ s.p.toNat + s.n.toNat > s.params.space
  | .hashLe | .hashBe | .bulkSetup | .bulkFold | .remix | .mixupAb _ | .mixupBa _ => False

/-- The requests a micro-operation command issues when its bound check holds and each is answered (20_memory.md R57;
41_mixer_bulk.md R122). -/
def requestsOf (i : Instr) (s : State) : List Request :=
  match i with
  | .bulkBlockLe | .bulkBlockBe => blockRequests s.params s.p.toNat
  | .tailQ4Le | .tailQ4Be => if s.n.toNat ≥ 13 then wordRequests s.params s.p.toNat else []
  | .tailQ3Le | .tailQ3Be => if s.n.toNat ≥ 9 then wordRequests s.params s.p.toNat else []
  | .tailQ2Le | .tailQ2Be => if s.n.toNat ≥ 5 then wordRequests s.params s.p.toNat else []
  | .tailQ1Le | .tailQ1Be => if s.n.toNat ≥ 1 then tailRequests s.params s.p.toNat s.n.toNat else []
  | .fetch32Le | .fetch32Be => wordRequests s.params s.p.toNat
  | .tail32Le | .tail32Be => tailRequests s.params s.p.toNat s.n.toNat
  | .hashLe | .hashBe | .init | .bulkSetup | .bulkFold | .remix | .mixupAb _ | .mixupBa _ => []

/-- The memory answers every request of the list. -/
def State.answers (s : State) (qs : List Request) : Prop := ∀ q ∈ qs, s.memRead q ≠ none

/-- `q` is the first request of the list that the memory answers with a bus error, and `issued` are the requests up to it
(60_exceptions.md R182, R187 (4)). -/
def State.failsAt (s : State) (qs : List Request) (q : Request) (issued : List Request) : Prop :=
  ∃ before after, qs = before ++ q :: after ∧ issued = before ++ [q] ∧ s.memRead q = none ∧ s.answers before

/-! ## The invariant -/

/-- P stands where N says it does: the bytes not yet consumed are the last N of the buffer, and P is their start, modulo
2^ADDR_W (10_state.md R25; assumption log 25). -/
def State.onBuffer (s : State) : Prop :=
  s.addr.toNat + s.len.toNat ≤ s.params.space ∧ s.n.toNat ≤ s.len.toNat ∧
    s.p.toNat = (s.addr.toNat + s.len.toNat - s.n.toNat) % s.params.space

/-- What holds at each phase of a running HASH (43_hash_sequence.md R161 to R164). -/
def State.hashProgress (s : State) : Prop :=
  match s.phase with
  | .init => True
  | .bulkSetup => s.onBuffer ∧ s.n = s.len ∧ 16 < s.n.toNat
  | .bulkBlock => s.onBuffer ∧ 16 < s.len.toNat ∧ 16 ≤ s.n.toNat
  | .bulkFold => s.onBuffer ∧ 16 < s.len.toNat ∧ s.n.toNat < 16
  | .tailQ4 => s.onBuffer ∧ s.n.toNat ≤ 16
  | .tailQ3 => s.onBuffer ∧ s.n.toNat ≤ 12
  | .tailQ2 => s.onBuffer ∧ s.n.toNat ≤ 8
  | .tailQ1 => s.onBuffer ∧ s.n.toNat ≤ 4
  | .remix => s.onBuffer ∧ s.n = 0
  | .idle | .fetch32 | .tail32 | .mixup => False

/-- The invariant of the machine: what the spec says of every state it can be in. -/
structure State.Inv (s : State) : Prop where
  /-- memory has its canonical form -/
  memForm : Memory.wf s.mem = true
  /-- memory lists no address outside the address space (10_state.md R41) -/
  memBound : Memory.within s.params.space s.mem = true
  /-- ADDR holds ADDR_W bits (10_state.md R38) -/
  addrBound : s.addr.toNat < s.params.space
  /-- P holds ADDR_W bits -/
  pBound : s.p.toNat < s.params.space
  /-- EADDR holds ADDR_W bits -/
  eaddrBound : s.eaddr.toNat < s.params.space
  /-- BUSY = 1 exactly when the phase names a micro-operation (R27, R161) -/
  busyPhase : s.busy = true ↔ s.phase ≠ .idle
  /-- HSEQ = 1 only while a command runs (R28) -/
  hseqBusy : s.hseq = true → s.busy = true
  /-- DONE and ERR are 0 while a command runs (R90, R192) -/
  busyClear : s.busy = true → s.done = false ∧ s.err = false
  /-- at most one of DONE and ERR is 1 (R29) -/
  oneEnd : ¬(s.done = true ∧ s.err = true)
  /-- ECODE is 0 exactly when ERR is 0 (R29) -/
  errCode : s.err = true ↔ s.ecode ≠ .none
  /-- EPHASE is 0 when ERR is 0 (R29) -/
  errPhase : s.err = false → s.ephase = .idle
  /-- ECUR is the E of the latch (R28) -/
  ecurCur : s.ecur = s.cur.e
  /-- while a command runs, CUR holds a legal command, HSEQ says whether it is HASH, and outside HASH the phase is OP (R90) -/
  running : s.busy = true → ∃ i, decodeFields s.cur.op s.cur.e s.cur.k s.cur.x = .legal i ∧ isHash i = s.hseq ∧
    (s.hseq = false → s.phase = startPhase i)
  /-- where a running HASH stands -/
  progress : s.hseq = true → s.hashProgress
  /-- no command runs while reset is asserted (R210, R211) -/
  resetIdle : s.inReset = true → s.busy = false

/-! ## The hash as a function -/

/-- `k` block updates over the bytes, 16 a block (43_hash_sequence.md R163). -/
def bulkLoop (p : Params) (e : ByteOrder) : Nat → Acc → List Byte → Acc
  | 0, v, _ => v
  | k + 1, v, bs => bulkLoop p e k (blockOfBytes p e bs v) (bs.drop 16)

/-- Accumulator A, B and the bytes not yet consumed. -/
structure TailState where
  a : Word
  b : Word
  rest : List Byte
  deriving DecidableEq, Repr

/-- The step of bucket 13..16: into (a, b) with q4 (42_mixer_tail_final.md R148). -/
def cascade4 (p : Params) (e : ByteOrder) (t : TailState) : TailState :=
  if 13 ≤ t.rest.length then
    ⟨(mixup32 t.a t.b (assembleWord e t.rest) p.q[4]).1, (mixup32 t.a t.b (assembleWord e t.rest) p.q[4]).2, t.rest.drop 4⟩
  else t

/-- The step of bucket 9..12: into (b, a) with q3. -/
def cascade3 (p : Params) (e : ByteOrder) (t : TailState) : TailState :=
  if 9 ≤ t.rest.length then
    ⟨(mixup32 t.b t.a (assembleWord e t.rest) p.q[3]).2, (mixup32 t.b t.a (assembleWord e t.rest) p.q[3]).1, t.rest.drop 4⟩
  else t

/-- The step of bucket 5..8: into (a, b) with q2. -/
def cascade2 (p : Params) (e : ByteOrder) (t : TailState) : TailState :=
  if 5 ≤ t.rest.length then
    ⟨(mixup32 t.a t.b (assembleWord e t.rest) p.q[2]).1, (mixup32 t.a t.b (assembleWord e t.rest) p.q[2]).2, t.rest.drop 4⟩
  else t

/-- The step of bucket 1..4: the bounded tail read into (b, a) with q1; no byte, no mix. -/
def cascade1 (p : Params) (e : ByteOrder) (t : TailState) : TailState :=
  if 1 ≤ t.rest.length then
    ⟨(mixup32 t.b t.a (tailWord p e t.rest.length t.rest) p.q[1]).2,
     (mixup32 t.b t.a (tailWord p e t.rest.length t.rest) p.q[1]).1, []⟩
  else t

/-- The cascade: the four steps in order (R148). -/
def cascade (p : Params) (e : ByteOrder) (t : TailState) : TailState :=
  cascade1 p e (cascade2 p e (cascade3 p e (cascade4 p e t)))

/-- The accumulator and the bytes left when the tail phase begins (R160, R164). -/
def beforeTail (p : Params) (e : ByteOrder) (bs : List Byte) (seed : Dword) : TailState :=
  let len : Dword := BitVec.ofNat 64 bs.length
  let a0 := initA p len seed
  let b0 := initB len seed
  if 16 < bs.length then
    let v := foldAcc p (bulkLoop p e (bs.length / 16) (setupAcc a0 b0) bs)
    ⟨v.a, v.b, bs.drop (16 * (bs.length / 16))⟩
  else ⟨a0, b0, bs⟩

/-- The hash of the bytes `bs` with `seed`, in the variant `e`, for a device with parameters `p`: the function of
00_scope.md R3, computed straight through (R160). -/
def hashValue (p : Params) (e : ByteOrder) (bs : List Byte) (seed : Dword) : Dword :=
  let t := cascade p e (beforeTail p e bs seed)
  (remix32 p t.a t.b).2

/-- The engine steps of a HASH that completes (43_hash_sequence.md R168). -/
def hashSteps (len : Nat) : Nat := if len ≤ 16 then 6 else 8 + len / 16

end Sys2Proof.Machine
end

