-- ==== Sys2Proof/Certificates/Slice0/Obligations.lean ====
section
/-!
DEFINITION. The statements for the provers. Each docstring names the rules of spec/ it formalises. A statement about every
state holds for every value of the parameters (00_scope.md R6), since they stand in the state.
-/

open Sys2Proof Sys2Proof.Machine

/-! ## Commands: encoding and decoding -/

/-- Words written out from 30_encoding.md §8 decode to the commands they stand for: one for each OP, both values of E, and the
two operand orders of MIXUP. -/
def Obligations.SpecWordsDecode : Prop :=
  decodeCommand 0b0000000000000001 = .legal .hashLe ∧ decodeCommand 0b0000000000010001 = .legal .hashBe ∧
  decodeCommand 0b0000000000000010 = .legal .init ∧ decodeCommand 0b0000000000000011 = .legal .bulkSetup ∧
  decodeCommand 0b0000000000010100 = .legal .bulkBlockBe ∧ decodeCommand 0b0000000000000101 = .legal .bulkFold ∧
  decodeCommand 0b0000000000000110 = .legal .tailQ4Le ∧ decodeCommand 0b0000000000010111 = .legal .tailQ3Be ∧
  decodeCommand 0b0000000000001000 = .legal .tailQ2Le ∧ decodeCommand 0b0000000000011001 = .legal .tailQ1Be ∧
  decodeCommand 0b0000000000001010 = .legal .remix ∧ decodeCommand 0b0000000000001011 = .legal .fetch32Le ∧
  decodeCommand 0b0000000000011100 = .legal .tail32Be ∧ decodeCommand 0b0000000011001101 = .legal (.mixupAb 6) ∧
  decodeCommand 0b0000000100101101 = .legal (.mixupBa 1)

/-- Every well-formed command's word, written to CMD, decodes to that command, with every value of K (30_encoding.md §8). -/
def Obligations.DecodeOfEncode : Prop := ∀ i : Instr, i.wf = true → decodeCommand (commandValue i) = .legal i

/-- A value that decodes to a command is that command's word with zeros above it, and the command is well-formed
(30_encoding.md R80, R87): no two values stand for one command. -/
def Obligations.EncodeOfDecode : Prop :=
  ∀ (v : Dword) (i : Instr), decodeCommand v = .legal i → i.wf = true ∧ commandValue i = v

/-- 30_encoding.md R87: a CMD write is illegal exactly when (a) to (f) says so; it then raises ILLEGAL at acceptance and
executes nothing; every other value is a row of the opcode table. -/
def Obligations.IllegalExactlyByRule : Prop :=
  ∀ v : Dword,
    ((∃ r, decodeCommand v = .illegal r) ↔
      v.toNat / 2 ^ 16 ≠ 0 ∨
      v.toNat % 16 ∈ [0x0, 0xE, 0xF] ∨
      v.toNat / 2 ^ 9 % 2 ^ 7 ≠ 0 ∨
      (v.toNat / 2 ^ 4 % 2 = 1 ∧ v.toNat % 16 ∈ [0x2, 0x3, 0x5, 0xA, 0xD]) ∨
      (v.toNat % 16 ≠ 0xD ∧ (v.toNat / 2 ^ 5 % 2 ^ 3 ≠ 0 ∨ v.toNat / 2 ^ 8 % 2 ≠ 0)) ∨
      (v.toNat % 16 = 0xD ∧ v.toNat / 2 ^ 5 % 2 ^ 3 = 7)) ∧
    (∀ i, decodeCommand v = .legal i →
      ∃ r ∈ opcodeTable, r.mnemonic = i.mnemonic ∧ r.admits (v.setWidth 16) = true) ∧
    (∀ (r : IllegalReason) (s : State), decodeCommand v = .illegal r → s.busy = false → s.inReset = false →
      (s.hostWrite .cmd v).ecode = .illegal ∧ (s.hostWrite .cmd v).busy = false ∧
      (s.hostWrite .cmd v).engineTurn = .next (s.hostWrite .cmd v))

/-- The assembler reads every command's own text (30_encoding.md R91), and `mixup q<K>` as `mixup.ab q<K>` (R93). -/
def Obligations.AssemblerReadsCommandText : Prop :=
  (∀ i : Instr, i.wf = true → assemble i.text = some i) ∧
  (∀ k : BitVec 3, k ≠ 7 → assemble ("mixup " ++ primeName k) = some (.mixupAb k))

/-! ## Acceptance and steps -/

/-- A step runs the decoded command: when the host writes a legal word to CMD, idle and out of reset, the step accepts it, and
the engine's next step is the command's meaning (30_encoding.md R90; 43_hash_sequence.md R161). -/
def Obligations.StepRunsAcceptedCommand : Prop :=
  ∀ (s : State) (v : Dword) (i : Instr), s.busy = false → s.inReset = false → decodeCommand v = .legal i →
    (∀ es, step { s with schedule := .regWrite .cmd v :: es } = .next { s.acceptCommand v with schedule := es }) ∧
    (s.schedule = [] → step (s.acceptCommand v) = exec i (s.acceptCommand v)) ∧
    (∀ es, step { s.acceptCommand v with schedule := .engine :: es } = exec i { s.acceptCommand v with schedule := es })

/-- In every state that meets the invariant with BUSY = 1, CUR holds a legal command and the engine's step is its meaning
(43_hash_sequence.md R161). -/
def Obligations.EngineStepRunsLatchedCommand : Prop :=
  ∀ s : State, s.Inv → s.busy = true → s.schedule = [] →
    ∃ i, decodeFields s.cur.op s.cur.e s.cur.k s.cur.x = .legal i ∧ step s = exec i s

/-- `withFetchWord` places a command so that the very next step runs it (the model's own interface; assumption log 4). -/
def Obligations.PlacedCommandRunsNext : Prop :=
  ∀ (s : State) (w : Nat) (i : Instr), w < 2 ^ 16 → decodeTableWord 16 w = some i →
    step (s.withFetchWord 16 w) =
      exec i (State.acceptCommand (BitVec.ofNat 64 w) { s with busy := false, inReset := false })

/-- 30_encoding.md R90, all three branches: a CMD write while BUSY = 1 sets OVR and does nothing else; an illegal word is
recorded and raises ILLEGAL; a legal one latches CUR and ECUR, sets BUSY, and sets HSEQ and the phase by OP. -/
def Obligations.CommandAcceptance : Prop :=
  ∀ (s : State) (v : Dword), s.inReset = false →
    (s.busy = true → s.hostWrite .cmd v = { s with ovr := true }) ∧
    (∀ r, s.busy = false → decodeCommand v = .illegal r →
      s.hostWrite .cmd v =
        { s with cmd := v.setWidth 16, done := false, err := true, ecode := .illegal, ephase := .idle }) ∧
    (∀ i, s.busy = false → decodeCommand v = .legal i →
      ∃ ph : Phase, ph.code = (if v.extractLsb' 0 4 = 1 then 2 else v.extractLsb' 0 4) ∧
        s.hostWrite .cmd v =
          { s with
            cmd := v.setWidth 16, done := false, err := false, ecode := .none, ephase := .idle
            cur := ⟨v.extractLsb' 0 4, v.getLsbD 4, v.extractLsb' 5 3, v.getLsbD 8⟩
            ecur := v.getLsbD 4, busy := true, hseq := v.extractLsb' 0 4 == 1, phase := ph, held := [] })

/-- The engine has no step while BUSY = 0 or in phase IDLE (43_hash_sequence.md R161; 60_exceptions.md R199): with nothing on
the schedule a step leaves the machine as it is. That such a step is a step at all is the model's choice (assumption log 5). -/
def Obligations.IdleEngineDoesNothing : Prop :=
  ∀ s : State, s.schedule = [] → (s.busy = false ∨ s.phase = .idle) → step s = .next s

/-! ## The register port -/

/-- 10_state.md R29: the fields of STATUS as a read returns them, and what a write of `v` to STATUS does. -/
def Obligations.StatusReadAndWrite : Prop :=
  ∀ (s : State) (v : Dword),
    ((s.readReg .status).extractLsb' 0 1 = BitVec.ofBool s.busy ∧ (s.readReg .status).extractLsb' 1 1 = BitVec.ofBool s.done ∧
     (s.readReg .status).extractLsb' 2 1 = BitVec.ofBool s.err ∧ (s.readReg .status).extractLsb' 3 1 = BitVec.ofBool s.ovr ∧
     (s.readReg .status).extractLsb' 4 4 = s.ecode.code ∧ (s.readReg .status).extractLsb' 8 4 = s.phase.code ∧
     (s.readReg .status).extractLsb' 12 1 = BitVec.ofBool s.hseq ∧
     (s.readReg .status).extractLsb' 13 1 = BitVec.ofBool s.ecur ∧ (s.readReg .status).extractLsb' 14 2 = 0 ∧
     (s.readReg .status).extractLsb' 16 4 = s.ephase.code ∧ (s.readReg .status).extractLsb' 20 44 = 0) ∧
    (s.inReset = false →
      s.hostWrite .status v =
        { s with
          done := s.done && !v.getLsbD 1
          err := s.err && !v.getLsbD 2
          ecode := if v.getLsbD 2 then .none else s.ecode
          ephase := if v.getLsbD 2 then .idle else s.ephase
          ovr := s.ovr && !v.getLsbD 3 })

/-- 10_state.md R35: while BUSY = 1 a host write to any offset but STATUS is dropped, changing no state except OVR. -/
def Obligations.WriteWhileBusyIsDropped : Prop :=
  ∀ (s : State) (r : Reg) (v : Dword) (es : List Event), s.busy = true → s.inReset = false → r ≠ .status →
    step { s with schedule := .regWrite r v :: es } = .next { s with ovr := true, schedule := es }

/-- 10_state.md R34, R36, R37, R38: what a host read returns, whether or not a command runs; nothing but the port's value
changes. -/
def Obligations.HostReadReturnsRegister : Prop :=
  ∀ (s : State) (es : List Event), s.inReset = false →
    (∀ r, step { s with schedule := .regRead r :: es } = .next { s with rdata := s.readReg r, schedule := es }) ∧
    s.readReg .cmd = s.cmd.setWidth 64 ∧ s.readReg .addr = s.addr ∧ s.readReg .len = s.len ∧ s.readReg .seed = s.seed ∧
    s.readReg .ab = s.b ++ s.a ∧ s.readReg .cd = s.d ++ s.c ∧ s.readReg .p = s.p ∧ s.readReg .n = s.n ∧
    s.readReg .w = s.w.setWidth 64 ∧ s.readReg .res = s.res ∧ s.readReg .eaddr = s.eaddr ∧
    s.readReg .rsv60 = 0 ∧ s.readReg .rsv68 = 0 ∧ s.readReg .rsv70 = 0 ∧ s.readReg .rsv78 = 0

/-- 10_state.md R34, R37, R38: what a host write stores while BUSY = 0; RES, EADDR and the reserved offsets ignore it. -/
def Obligations.HostWriteStoresRegister : Prop :=
  ∀ (s : State) (v : Dword), s.inReset = false → s.busy = false →
    s.hostWrite .addr v = { s with addr := BitVec.ofNat 64 (v.toNat % s.params.space) } ∧
    s.hostWrite .p v = { s with p := BitVec.ofNat 64 (v.toNat % s.params.space) } ∧
    s.hostWrite .len v = { s with len := v } ∧ s.hostWrite .seed v = { s with seed := v } ∧
    s.hostWrite .n v = { s with n := v } ∧
    s.hostWrite .ab v = { s with a := v.setWidth 32, b := (v >>> 32).setWidth 32 } ∧
    s.hostWrite .cd v = { s with c := v.setWidth 32, d := (v >>> 32).setWidth 32 } ∧
    s.hostWrite .w v = { s with w := v.setWidth 32 } ∧
    ∀ r ∈ [Reg.res, .eaddr, .rsv60, .rsv68, .rsv70, .rsv78], s.hostWrite r v = s

/-- 60_exceptions.md R189: done_irq equals DONE OR ERR at all times; it is high when a command has ended, successfully or not,
and after an ILLEGAL acceptance, and low after the acceptance of a legal command, after the host cleared DONE and ERR, and at
reset. -/
def Obligations.DoneIrqLevel : Prop :=
  ∀ s : State,
    s.doneIrq = ((s.readReg .status).getLsbD 1 || (s.readReg .status).getLsbD 2) ∧
    (∀ i t, s.busy = true → exec i s = .next t → t.busy = false → t.doneIrq = true) ∧
    (∀ v i, s.busy = false → s.inReset = false → decodeCommand v = .legal i → (s.hostWrite .cmd v).doneIrq = false) ∧
    (∀ v r, s.busy = false → s.inReset = false → decodeCommand v = .illegal r → (s.hostWrite .cmd v).doneIrq = true) ∧
    (s.inReset = false → (s.hostWrite .status 0x6).doneIrq = false) ∧
    s.assertReset.doneIrq = false

/-- While a command runs nothing but an engine step or reset touches it (60_exceptions.md R186, R190): host accesses, polls
and the memory's changes leave the control state and every data register as they are. -/
def Obligations.RunningCommandIsUndisturbed : Prop :=
  ∀ (s t : State) (e : Event), s.busy = true → s.inReset = false → e ≠ .engine → e ≠ .assertReset →
    State.takeTurn e s = .next t →
    t.busy = true ∧ t.phase = s.phase ∧ t.hseq = s.hseq ∧ t.cur = s.cur ∧ t.ecur = s.ecur ∧ t.cmd = s.cmd ∧
    t.addr = s.addr ∧ t.len = s.len ∧ t.seed = s.seed ∧ t.a = s.a ∧ t.b = s.b ∧ t.c = s.c ∧ t.d = s.d ∧
    t.p = s.p ∧ t.n = s.n ∧ t.w = s.w ∧ t.res = s.res ∧ t.eaddr = s.eaddr

/-! ## Reset -/

/-- 10_state.md R42: after reset every register and STATUS read 0, the phase is IDLE, CUR is 0 and the constant store holds the
device's values, for a device with any parameters. -/
def Obligations.ResetValues : Prop :=
  ∀ p : Params,
    (∀ r : Reg, (State.resetWith p).readReg r = 0) ∧ (State.resetWith p).phase = .idle ∧
    (State.resetWith p).busy = false ∧ (State.resetWith p).done = false ∧ (State.resetWith p).err = false ∧
    (State.resetWith p).ovr = false ∧ (State.resetWith p).ecode = .none ∧ (State.resetWith p).hseq = false ∧
    (State.resetWith p).ecur = false ∧ (State.resetWith p).ephase = .idle ∧
    (State.resetWith p).cur = ⟨0, false, 0, false⟩ ∧ (State.resetWith p).params = p

/-- 70_reset_and_hazards.md R210, R211: asserting reset in any state puts every register to 0 and the engine to IDLE without
DONE or ERR and without a read; while it is asserted host accesses have no effect and reads return 0 and the engine has no
step; after its release the device is idle and takes a command. The memory is not the device's and keeps its contents. -/
def Obligations.ResetFromAnyState : Prop :=
  ∀ (s : State) (es : List Event), ∃ t : State,
    step { s with schedule := .assertReset :: es } = .next t ∧ t.schedule = es ∧ t.inReset = true ∧
    (∀ r : Reg, t.readReg r = 0) ∧ t.busy = false ∧ t.done = false ∧ t.err = false ∧ t.phase = .idle ∧
    t.cur = ⟨0, false, 0, false⟩ ∧ t.params = s.params ∧ t.mem = s.mem ∧ t.reads = s.reads ∧
    t.engineTurn = .next t ∧ (∀ r v, t.hostWrite r v = t) ∧ (∀ r, t.hostRead r = { t with rdata := 0 }) ∧
    (∀ v i, decodeCommand v = .legal i → (t.releaseReset.hostWrite .cmd v).busy = true)

/-! ## Arithmetic -/

/-- 00_scope.md R12: rotl32 is the identity for r mod 32 = 0 and else ((x << r') | (x >> (32 - r'))) mod 2^32. -/
def Obligations.RotateLeft : Prop :=
  ∀ (x : Word) (r : Nat),
    (r % 32 = 0 → rotl32 x r = x) ∧
    (r % 32 ≠ 0 → (rotl32 x r).toNat = (x.toNat * 2 ^ (r % 32)) % 2 ^ 32 + x.toNat / 2 ^ (32 - r % 32)) ∧
    rotl32 x r = x.rotateLeft r

/-- 00_scope.md R13 and 42_mixer_tail_final.md R140: the product is exact, and mixup32 adds its high half to y and XORs its low
half into x, the sum y + v wrapping at 32 bits first. -/
def Obligations.MixupStep : Prop :=
  ∀ x y v q : Word,
    (mul32x64 x y).toNat = x.toNat * y.toNat ∧
    (mixup32 x y v q).1 = x ^^^ BitVec.ofNat 32 ((y.toNat + v.toNat) % 2 ^ 32 * q.toNat) ∧
    (mixup32 x y v q).2.toNat = (y.toNat + (y.toNat + v.toNat) % 2 ^ 32 * q.toNat / 2 ^ 32) % 2 ^ 32

/-- 20_memory.md R50 and 40_fetch_tail.md R100: the word of four bytes in either byte order. -/
def Obligations.WordByteOrder : Prop :=
  ∀ b0 b1 b2 b3 : Byte,
    assembleWord .little [b0, b1, b2, b3] = b3 ++ b2 ++ b1 ++ b0 ∧
    assembleWord .big [b0, b1, b2, b3] = b0 ++ b1 ++ b2 ++ b3

/-- 40_fetch_tail.md R101, R102, R103: a tail of 1 to 3 bytes is the word that a load in the same byte order gives with the
missing bytes zero (for RIGHT_JUSTIFIED, missing high-order bytes); a tail of 4 is the full word. -/
def Obligations.TailIsZeroPaddedWord : Prop :=
  ∀ (p : Params) (bs : List Byte), 1 ≤ bs.length → bs.length ≤ 4 →
    tailWord p .little bs.length bs = assembleWord .little (bs ++ List.replicate (4 - bs.length) 0) ∧
    (p.beTail = .padLow →
      tailWord p .big bs.length bs = assembleWord .big (bs ++ List.replicate (4 - bs.length) 0)) ∧
    (p.beTail = .rightJustified →
      tailWord p .big bs.length bs = assembleWord .big (List.replicate (4 - bs.length) 0 ++ bs))

/-! ## What each command does -/

/-- 41_mixer_bulk.md R120. -/
def Obligations.InitResult : Prop :=
  decodeCommand 0x0002 = .legal .init ∧
  ∀ s : State, s.addr.toNat < s.params.space →
    (s.addr.toNat + s.len.toNat > s.params.space → exec .init s = .next (endedBy .range .init s.addr s)) ∧
    (s.addr.toNat + s.len.toNat ≤ s.params.space →
      exec .init s = .next (endedOk
        { s with
          a := (s.len.setWidth 32).rotateLeft s.params.s.toNat + s.seed.setWidth 32
          b := s.len.setWidth 32 ^^^ (s.seed >>> 32).setWidth 32
          p := s.addr
          n := s.len }))

/-- 41_mixer_bulk.md R121. -/
def Obligations.BulkSetupResult : Prop :=
  decodeCommand 0x0003 = .legal .bulkSetup ∧
  ∀ s : State, exec .bulkSetup s = .next (endedOk { s with c := ~~~s.a, d := s.b.rotateLeft 5 })

/-- 41_mixer_bulk.md R122, R123. `bs` are the 16 bytes at P; w0..w3 its words. -/
def Obligations.BulkBlockResult : Prop :=
  decodeCommand 0x0004 = .legal .bulkBlockLe ∧ decodeCommand 0x0014 = .legal .bulkBlockBe ∧
  ∀ (e : ByteOrder) (s : State), s.p.toNat < s.params.space →
    (s.n.toNat < 16 ∨ s.p.toNat + 16 > s.params.space →
      exec (blockCommand e) s = .next (endedBy .range .bulkBlock s.p s)) ∧
    (∀ bs : List Byte, 16 ≤ s.n.toNat → s.p.toNat + 16 ≤ s.params.space → bs.length = 16 → s.delivers s.p.toNat bs →
      let w0 := assembleWord e bs
      let w1 := assembleWord e (bs.drop 4)
      let w2 := assembleWord e (bs.drop 8)
      let w3 := assembleWord e (bs.drop 12)
      exec (blockCommand e) s = .next (endedOk
        { s.noteReads (splitsWord s.params s.p.toNat) bs (blockRequests s.params s.p.toNat) with
          c := s.c ^^^ (s.b + w1).rotateLeft 7
          d := s.d ^^^ (s.a + w0).rotateLeft 3
          b := s.params.q[1] * ((w0 ^^^ (w2 + s.c).rotateLeft 11) + w3)
          a := s.params.q[0] * ((w1 + (w3 + s.d).rotateLeft s.params.s.toNat) ^^^ w2)
          p := BitVec.ofNat 64 ((s.p.toNat + 16) % s.params.space)
          n := s.n - 16 })) ∧
    (∀ q issued, 16 ≤ s.n.toNat → s.p.toNat + 16 ≤ s.params.space →
      s.failsAt (blockRequests s.params s.p.toNat) q issued →
      exec (blockCommand e) s =
        .next (endedBy .bus .bulkBlock (BitVec.ofNat 64 q.addr) (s.noteReads false [] issued)))

/-- 41_mixer_bulk.md R124. -/
def Obligations.BulkFoldResult : Prop :=
  decodeCommand 0x0005 = .legal .bulkFold ∧
  ∀ s : State,
    exec .bulkFold s = .next (endedOk
      { s with
        c := s.c + s.a
        d := s.d + s.b
        a := s.a ^^^ (s.params.q[6] * ((s.c + s.a).rotateLeft 16 + (s.d + s.b)))
        b := s.b ^^^ (s.params.q[5] * ((s.c + s.a) + (s.d + s.b).rotateLeft 16)) })

/-- 42_mixer_tail_final.md R145, for each K in 0..6 and both operand orders; K = 7 is illegal at acceptance. -/
def Obligations.MixupResult : Prop :=
  (∀ k : BitVec 3, k ≠ 7 → decodeCommand (0x000D ||| k.setWidth 64 <<< 5) = .legal (.mixupAb k) ∧
    decodeCommand (0x010D ||| k.setWidth 64 <<< 5) = .legal (.mixupBa k)) ∧
  decodeCommand 0x00ED = .illegal .noConstant ∧ decodeCommand 0x01ED = .illegal .noConstant ∧
  ∀ (s : State) (k : BitVec 3) (h : k.toNat < 7),
    let q := s.params.q[k.toNat]
    let lab : Dword := (s.b + s.w).setWidth 64 * q.setWidth 64
    let lba : Dword := (s.a + s.w).setWidth 64 * q.setWidth 64
    exec (.mixupAb k) s =
      .next (endedOk { s with a := s.a ^^^ lab.setWidth 32, b := s.b + (lab >>> 32).setWidth 32 }) ∧
    exec (.mixupBa k) s =
      .next (endedOk { s with b := s.b ^^^ lba.setWidth 32, a := s.a + (lba >>> 32).setWidth 32 })

/-- 42_mixer_tail_final.md R141. -/
def Obligations.TailQ4Result : Prop :=
  decodeCommand 0x0006 = .legal .tailQ4Le ∧ decodeCommand 0x0016 = .legal .tailQ4Be ∧
  ∀ (e : ByteOrder) (s : State), s.p.toNat < s.params.space →
    (s.n.toNat > 16 ∨ 13 ≤ s.n.toNat ∧ s.p.toNat + 4 > s.params.space →
      exec (tailQ4Command e) s = .next (endedBy .range .tailQ4 s.p s)) ∧
    (s.n.toNat ≤ 12 → exec (tailQ4Command e) s = .next (endedOk s)) ∧
    (∀ bs : List Byte, 13 ≤ s.n.toNat → s.n.toNat ≤ 16 → s.p.toNat + 4 ≤ s.params.space → bs.length = 4 →
      s.delivers s.p.toNat bs →
      let l : Dword := (s.b + assembleWord e bs).setWidth 64 * s.params.q[4].setWidth 64
      exec (tailQ4Command e) s = .next (endedOk
        { s.noteReads (splitsWord s.params s.p.toNat) bs (wordRequests s.params s.p.toNat) with
          a := s.a ^^^ l.setWidth 32
          b := s.b + (l >>> 32).setWidth 32
          p := BitVec.ofNat 64 ((s.p.toNat + 4) % s.params.space)
          n := s.n - 4 })) ∧
    (∀ q issued, 13 ≤ s.n.toNat → s.n.toNat ≤ 16 → s.p.toNat + 4 ≤ s.params.space →
      s.failsAt (wordRequests s.params s.p.toNat) q issued →
      exec (tailQ4Command e) s =
        .next (endedBy .bus .tailQ4 (BitVec.ofNat 64 q.addr) (s.noteReads false [] issued)))

/-- 42_mixer_tail_final.md R142. -/
def Obligations.TailQ3Result : Prop :=
  decodeCommand 0x0007 = .legal .tailQ3Le ∧ decodeCommand 0x0017 = .legal .tailQ3Be ∧
  ∀ (e : ByteOrder) (s : State), s.p.toNat < s.params.space →
    (s.n.toNat > 12 ∨ 9 ≤ s.n.toNat ∧ s.p.toNat + 4 > s.params.space →
      exec (tailQ3Command e) s = .next (endedBy .range .tailQ3 s.p s)) ∧
    (s.n.toNat ≤ 8 → exec (tailQ3Command e) s = .next (endedOk s)) ∧
    (∀ bs : List Byte, 9 ≤ s.n.toNat → s.n.toNat ≤ 12 → s.p.toNat + 4 ≤ s.params.space → bs.length = 4 →
      s.delivers s.p.toNat bs →
      let l : Dword := (s.a + assembleWord e bs).setWidth 64 * s.params.q[3].setWidth 64
      exec (tailQ3Command e) s = .next (endedOk
        { s.noteReads (splitsWord s.params s.p.toNat) bs (wordRequests s.params s.p.toNat) with
          b := s.b ^^^ l.setWidth 32
          a := s.a + (l >>> 32).setWidth 32
          p := BitVec.ofNat 64 ((s.p.toNat + 4) % s.params.space)
          n := s.n - 4 })) ∧
    (∀ q issued, 9 ≤ s.n.toNat → s.n.toNat ≤ 12 → s.p.toNat + 4 ≤ s.params.space →
      s.failsAt (wordRequests s.params s.p.toNat) q issued →
      exec (tailQ3Command e) s =
        .next (endedBy .bus .tailQ3 (BitVec.ofNat 64 q.addr) (s.noteReads false [] issued)))

/-- 42_mixer_tail_final.md R143. -/
def Obligations.TailQ2Result : Prop :=
  decodeCommand 0x0008 = .legal .tailQ2Le ∧ decodeCommand 0x0018 = .legal .tailQ2Be ∧
  ∀ (e : ByteOrder) (s : State), s.p.toNat < s.params.space →
    (s.n.toNat > 8 ∨ 5 ≤ s.n.toNat ∧ s.p.toNat + 4 > s.params.space →
      exec (tailQ2Command e) s = .next (endedBy .range .tailQ2 s.p s)) ∧
    (s.n.toNat ≤ 4 → exec (tailQ2Command e) s = .next (endedOk s)) ∧
    (∀ bs : List Byte, 5 ≤ s.n.toNat → s.n.toNat ≤ 8 → s.p.toNat + 4 ≤ s.params.space → bs.length = 4 →
      s.delivers s.p.toNat bs →
      let l : Dword := (s.b + assembleWord e bs).setWidth 64 * s.params.q[2].setWidth 64
      exec (tailQ2Command e) s = .next (endedOk
        { s.noteReads (splitsWord s.params s.p.toNat) bs (wordRequests s.params s.p.toNat) with
          a := s.a ^^^ l.setWidth 32
          b := s.b + (l >>> 32).setWidth 32
          p := BitVec.ofNat 64 ((s.p.toNat + 4) % s.params.space)
          n := s.n - 4 })) ∧
    (∀ q issued, 5 ≤ s.n.toNat → s.n.toNat ≤ 8 → s.p.toNat + 4 ≤ s.params.space →
      s.failsAt (wordRequests s.params s.p.toNat) q issued →
      exec (tailQ2Command e) s =
        .next (endedBy .bus .tailQ2 (BitVec.ofNat 64 q.addr) (s.noteReads false [] issued)))

/-- 42_mixer_tail_final.md R144. `tailWord` is the bounded tail read's word, for which see `TailIsZeroPaddedWord`. -/
def Obligations.TailQ1Result : Prop :=
  decodeCommand 0x0009 = .legal .tailQ1Le ∧ decodeCommand 0x0019 = .legal .tailQ1Be ∧
  ∀ (e : ByteOrder) (s : State), s.p.toNat < s.params.space →
    (s.n.toNat > 4 ∨ 1 ≤ s.n.toNat ∧ s.p.toNat + s.n.toNat > s.params.space →
      exec (tailQ1Command e) s = .next (endedBy .range .tailQ1 s.p s)) ∧
    (s.n.toNat = 0 → exec (tailQ1Command e) s = .next (endedOk s)) ∧
    (∀ bs : List Byte, 1 ≤ s.n.toNat → s.n.toNat ≤ 4 → s.p.toNat + s.n.toNat ≤ s.params.space →
      bs.length = s.n.toNat → s.delivers s.p.toNat bs →
      let l : Dword := (s.a + tailWord s.params e bs.length bs).setWidth 64 * s.params.q[1].setWidth 64
      exec (tailQ1Command e) s = .next (endedOk
        { s.noteReads (bs.length == 4 && splitsWord s.params s.p.toNat) bs
            (tailRequests s.params s.p.toNat bs.length) with
          b := s.b ^^^ l.setWidth 32
          a := s.a + (l >>> 32).setWidth 32
          p := BitVec.ofNat 64 ((s.p.toNat + s.n.toNat) % s.params.space)
          n := 0 })) ∧
    (∀ q issued, 1 ≤ s.n.toNat → s.n.toNat ≤ 4 → s.p.toNat + s.n.toNat ≤ s.params.space →
      s.failsAt (tailRequests s.params s.p.toNat s.n.toNat) q issued →
      exec (tailQ1Command e) s =
        .next (endedBy .bus .tailQ1 (BitVec.ofNat 64 q.addr) (s.noteReads false [] issued)))

/-- 42_mixer_tail_final.md R146, R147. -/
def Obligations.RemixResult : Prop :=
  decodeCommand 0x000A = .legal .remix ∧
  ∀ s : State,
    let a' := s.a ^^^ s.b.rotateLeft 13
    let l : Dword := (s.b ++ a') * s.params.p0
    exec .remix s = .next (endedOk { s with a := a', res := l ^^^ (l >>> 41) })

/-- 40_fetch_tail.md R100, R105. -/
def Obligations.FetchWordResult : Prop :=
  decodeCommand 0x000B = .legal .fetch32Le ∧ decodeCommand 0x001B = .legal .fetch32Be ∧
  ∀ s : State, s.p.toNat < s.params.space →
    (∀ e, s.n.toNat < 4 ∨ s.p.toNat + 4 > s.params.space →
      exec (fetchCommand e) s = .next (endedBy .range .fetch32 s.p s)) ∧
    (∀ b0 b1 b2 b3 : Byte, 4 ≤ s.n.toNat → s.p.toNat + 4 ≤ s.params.space → s.delivers s.p.toNat [b0, b1, b2, b3] →
      let t := s.noteReads (splitsWord s.params s.p.toNat) [b0, b1, b2, b3] (wordRequests s.params s.p.toNat)
      exec .fetch32Le s = .next (endedOk { t with w := b3 ++ b2 ++ b1 ++ b0 }) ∧
      exec .fetch32Be s = .next (endedOk { t with w := b0 ++ b1 ++ b2 ++ b3 })) ∧
    (∀ e q issued, 4 ≤ s.n.toNat → s.p.toNat + 4 ≤ s.params.space →
      s.failsAt (wordRequests s.params s.p.toNat) q issued →
      exec (fetchCommand e) s =
        .next (endedBy .bus .fetch32 (BitVec.ofNat 64 q.addr) (s.noteReads false [] issued)))

/-- 40_fetch_tail.md R106. `tailWord` is the bounded tail read's word, for which see `TailIsZeroPaddedWord`. -/
def Obligations.TailReadResult : Prop :=
  decodeCommand 0x000C = .legal .tail32Le ∧ decodeCommand 0x001C = .legal .tail32Be ∧
  ∀ (e : ByteOrder) (s : State), s.p.toNat < s.params.space →
    (s.n.toNat = 0 ∨ s.n.toNat > 4 ∨ s.p.toNat + s.n.toNat > s.params.space →
      exec (tail32Command e) s = .next (endedBy .range .tail32 s.p s)) ∧
    (∀ bs : List Byte, 1 ≤ s.n.toNat → s.n.toNat ≤ 4 → s.p.toNat + s.n.toNat ≤ s.params.space →
      bs.length = s.n.toNat → s.delivers s.p.toNat bs →
      exec (tail32Command e) s = .next (endedOk
        { s.noteReads (bs.length == 4 && splitsWord s.params s.p.toNat) bs
            (tailRequests s.params s.p.toNat bs.length) with
          w := tailWord s.params e bs.length bs })) ∧
    (∀ q issued, 1 ≤ s.n.toNat → s.n.toNat ≤ 4 → s.p.toNat + s.n.toNat ≤ s.params.space →
      s.failsAt (tailRequests s.params s.p.toNat s.n.toNat) q issued →
      exec (tail32Command e) s =
        .next (endedBy .bus .tail32 (BitVec.ofNat 64 q.addr) (s.noteReads false [] issued)))

/-- One engine step of HASH completes (43_hash_sequence.md R161): in a phase of HASH's sequence whose micro-operation passes
its bound check and whose reads are answered, `hash.le` and `hash.be` answer a next state without an error, in the phase of
the `next` table, and after REMIX with BUSY = 0, DONE = 1, HSEQ = 0. -/
def Obligations.HashStepCompletes : Prop :=
  ∀ (e : ByteOrder) (s : State) (i : Instr), microCommand e s.phase = some i → ¬rangeFails i s →
    s.answers (requestsOf i s) →
    ∃ t, exec (hashCommand e) s = .next t ∧ t.err = s.err ∧ t.reads = s.reads ++ requestsOf i s ∧
      t.phase = hashNext s.len.toNat t.n.toNat s.phase ∧
      (t.phase ≠ .idle → t.busy = s.busy ∧ t.done = s.done ∧ t.hseq = s.hseq) ∧
      (t.phase = .idle → t.busy = false ∧ t.done = true ∧ t.hseq = false)

/-- One engine step of HASH has the effect of the micro-operation its phase names (43_hash_sequence.md R160, R161): compared
with that micro-operation's own command, an error ends HASH in the same state, and a success differs only in BUSY, DONE, HSEQ
and the phase. -/
def Obligations.HashStepDoesItsMicroOperation : Prop :=
  ∀ (e : ByteOrder) (s t : State) (i : Instr), microCommand e s.phase = some i → s.err = false →
    exec i s = .next t →
    exec (hashCommand e) s =
      if t.err then .next t
      else if hashNext s.len.toNat t.n.toNat s.phase = .idle then .next { t with hseq := false }
      else .next { t with
        busy := s.busy, done := s.done, phase := hashNext s.len.toNat t.n.toNat s.phase }

/-! ## Errors -/

/-- 60_exceptions.md R181 with R184: a micro-operation command whose bound check fails ends with RANGE before any read, EADDR
holding P, or ADDR for INIT; one whose check holds never reports RANGE. -/
def Obligations.RangeErrors : Prop :=
  ∀ (i : Instr) (s : State), isHash i = false → s.p.toNat < s.params.space → s.addr.toNat < s.params.space →
    (rangeFails i s →
      exec i s = .next (endedBy .range (startPhase i) (if i = .init then s.addr else s.p) s)) ∧
    (∀ t, ¬rangeFails i s → s.ecode = .none → exec i s = .next t → t.ecode ≠ .range)

/-- 60_exceptions.md R182, R184, R185, R187: a micro-operation command whose bound check holds and one of whose requests is
answered with a bus error ends with BUS at the first such request, issues no read after it, and writes no data register. -/
def Obligations.BusErrors : Prop :=
  ∀ (i : Instr) (s : State) (q : Request) (issued : List Request), isHash i = false → ¬rangeFails i s →
    s.failsAt (requestsOf i s) q issued →
    exec i s =
      .next (endedBy .bus (startPhase i) (BitVec.ofNat 64 q.addr)
        { s with reads := s.reads ++ issued, freeIx := s.freeIx + 1 })

/-- A micro-operation command that no error stops completes (43_hash_sequence.md R161): it answers a next state with DONE = 1,
BUSY = 0 and phase IDLE, ERR as it was, and exactly its requests issued (20_memory.md R57). -/
def Obligations.CommandsComplete : Prop :=
  ∀ (i : Instr) (s : State), i.wf = true → isHash i = false → ¬rangeFails i s → s.answers (requestsOf i s) →
    ∃ t, exec i s = .next t ∧ t.done = true ∧ t.busy = false ∧ t.phase = .idle ∧ t.err = s.err ∧
      t.ecode = s.ecode ∧ t.eaddr = s.eaddr ∧ t.ephase = s.ephase ∧ t.reads = s.reads ++ requestsOf i s

/-- A command that has ended has either DONE or ERR (70_reset_and_hazards.md R219): from a state that meets the invariant, an
engine step that leaves BUSY = 0 leaves exactly one of the two set. -/
def Obligations.CommandEndsOneWay : Prop :=
  ∀ s t : State, s.Inv → s.busy = true → s.schedule = [] → step s = .next t → t.busy = false →
    (t.done = true ∧ t.err = false) ∨ (t.done = false ∧ t.err = true)

/-- The stops of the model: MIXUP with K = 7, which acceptance reports as ILLEGAL (30_encoding.md R87 (f)), is refused as
ill-formed, and HASH in a phase outside its sequence, for which 43_hash_sequence.md R161 gives no next phase, is stuck (the
model's choice; assumption log 14). -/
def Obligations.StopsByName : Prop :=
  ∀ (s : State) (e : ByteOrder),
    exec (.mixupAb 7) s = .refused .illFormed ∧ exec (.mixupBa 7) s = .refused .illFormed ∧
    (s.phase ∈ [Phase.idle, .fetch32, .tail32, .mixup] → exec (hashCommand e) s = .fault .noNextPhase)

/-! ## Frames -/

/-- What no command's engine step writes: the parameters, CMD, OVR, ECUR, CUR, ADDR, LEN, SEED, and the whole of memory, which
HDM never writes (10_state.md R32, R41; 20_memory.md R53). -/
def Obligations.EngineNeverWritesInputsOrMemory : Prop :=
  ∀ (i : Instr) (s t : State), exec i s = .next t →
    t.params = s.params ∧ t.cmd = s.cmd ∧ t.ovr = s.ovr ∧ t.ecur = s.ecur ∧ t.cur = s.cur ∧ t.addr = s.addr ∧
    t.len = s.len ∧ t.seed = s.seed ∧ t.inReset = s.inReset ∧ t.failing = s.failing ∧ t.held = s.held ∧
    t.rdata = s.rdata ∧ t.schedule = s.schedule ∧ ∀ x, Memory.read t.mem x = Memory.read s.mem x

/-- Which command may write which data register (10_state.md R22 to R26; D28): W is FETCH32's and TAIL32's, RES is REMIX's and
HASH's, C and D are BULK.SETUP's, BULK.BLOCK's, BULK.FOLD's and HASH's, P and N are INIT's, BULK.BLOCK's, the tail steps' and
HASH's, A is not written by BULK.SETUP, FETCH32 and TAIL32, and B not by REMIX either. -/
def Obligations.RegisterFrames : Prop :=
  ∀ (i : Instr) (s t : State), exec i s = .next t →
    (i ∉ [Instr.fetch32Le, .fetch32Be, .tail32Le, .tail32Be] → t.w = s.w) ∧
    (i ∉ [Instr.remix, .hashLe, .hashBe] → t.res = s.res) ∧
    (i ∉ [Instr.bulkSetup, .bulkBlockLe, .bulkBlockBe, .bulkFold, .hashLe, .hashBe] → t.c = s.c ∧ t.d = s.d) ∧
    (i ∉ [Instr.init, .bulkBlockLe, .bulkBlockBe, .tailQ4Le, .tailQ4Be, .tailQ3Le, .tailQ3Be, .tailQ2Le, .tailQ2Be,
        .tailQ1Le, .tailQ1Be, .hashLe, .hashBe] → t.p = s.p ∧ t.n = s.n) ∧
    (i ∈ [Instr.bulkSetup, .fetch32Le, .fetch32Be, .tail32Le, .tail32Be] → t.a = s.a) ∧
    (i ∈ [Instr.bulkSetup, .remix, .fetch32Le, .fetch32Be, .tail32Le, .tail32Be] → t.b = s.b)

/-- 60_exceptions.md R185: a step that reports an error writes none of A, B, C, D, P, N, W and RES. -/
def Obligations.ErrorsWriteNoDataRegister : Prop :=
  ∀ (i : Instr) (s t : State), s.err = false → exec i s = .next t → t.err = true →
    t.a = s.a ∧ t.b = s.b ∧ t.c = s.c ∧ t.d = s.d ∧ t.p = s.p ∧ t.n = s.n ∧ t.w = s.w ∧ t.res = s.res

/-- No step of the machine changes the parameters (00_scope.md R8; 10_state.md R32), whatever host and memory do. -/
def Obligations.ParametersNeverChange : Prop := ∀ s t : State, step s = .next t → t.params = s.params

/-! ## Memory -/

/-- 20_memory.md R55, R57, R59, R60: every request that an engine step issues lies inside `[P, P+N)` and below 2^ADDR_W, is of
1 byte, or of 4 bytes where the address is a multiple of 4 or UNALIGNED_OK holds, and the requests come in increasing address
order. -/
def Obligations.ReadsStayInsideBuffer : Prop :=
  ∀ (i : Instr) (s t : State), exec i s = .next t →
    ∃ new, t.reads = s.reads ++ new ∧ new.Pairwise (fun q r => q.addr + q.size ≤ r.addr) ∧
      ∀ q ∈ new, s.p.toNat ≤ q.addr ∧ q.addr + q.size ≤ s.p.toNat + s.n.toNat ∧
        q.addr + q.size ≤ s.params.space ∧
        (q.size = 1 ∨ q.size = 4 ∧ (q.addr % 4 = 0 ∨ s.params.unalignedOk = true))

/-- Within HASH no read leaves `[ADDR, ADDR+LEN)` (20_memory.md R55; 00_scope.md R3). -/
def Obligations.HashReadsStayInsideItsBuffer : Prop :=
  ∀ (e : ByteOrder) (s t : State), s.Inv → s.hseq = true → exec (hashCommand e) s = .next t →
    ∃ new, t.reads = s.reads ++ new ∧
      ∀ q ∈ new, s.addr.toNat ≤ q.addr ∧ q.addr + q.size ≤ s.addr.toNat + s.len.toNat

/-- 20_memory.md R58: the word FETCH32 delivers does not depend on P, on P mod 4 or on UNALIGNED_OK, only on the bytes. -/
def Obligations.FetchIndependentOfAlignment : Prop :=
  ∀ (e : ByteOrder) (s u : State) (bs : List Byte), bs.length = 4 →
    4 ≤ s.n.toNat → s.p.toNat + 4 ≤ s.params.space → s.delivers s.p.toNat bs →
    4 ≤ u.n.toNat → u.p.toNat + 4 ≤ u.params.space → u.delivers u.p.toNat bs →
    ∃ s' u', exec (fetchCommand e) s = .next s' ∧ exec (fetchCommand e) u = .next u' ∧ s'.w = u'.w

/-- 20_memory.md R63 and 93_implementation_defined.md U5: a byte read returns what memory holds there when the host has not
changed the byte during the command, and in any case a value the byte held since acceptance; a host write while a command runs
keeps the replaced value among those. It holds for every choice of the free value. -/
def Obligations.ByteReadsReturnHeldValues : Prop :=
  ∀ (s : State) (x : Nat),
    ((∀ y ∈ s.held, y.1 ≠ x) → s.byteAt x = Memory.read s.mem x) ∧
    (∀ v, s.byteAt x = some v → Memory.read s.mem x = some v ∨ (x, v) ∈ s.held) ∧
    (∀ v old, s.busy = true → Memory.read s.mem x = some old → (x, old) ∈ (s.bufferWrite x v).held) ∧
    (∀ v, s.busy = false → (s.bufferWrite x v).held = s.held) ∧
    (∀ v i, decodeCommand v = .legal i → (s.acceptCommand v).held = [])

/-- The host's store of a byte: read back at its address, every other byte as before, the canonical form kept, and outside the
address space, which has no such byte (10_state.md R41), a fault. -/
def Obligations.HostStoresByte : Prop :=
  ∀ (s : State) (x : Nat) (v : Byte) (es : List Event),
    (x < s.params.space → ∃ t, step { s with schedule := .memWrite x v :: es } = .next t ∧
      Memory.read t.mem x = some v ∧ (∀ y, y ≠ x → Memory.read t.mem y = Memory.read s.mem y) ∧
      (Memory.wf s.mem = true → Memory.wf t.mem = true)) ∧
    (s.params.space ≤ x → step { s with schedule := .memWrite x v :: es } = .fault .noSuchAddress)

/-! ## The invariant -/

/-- The invariant holds right after reset (10_state.md R42). -/
def Obligations.ResetMeetsInvariant : Prop := State.reset.Inv ∧ ∀ p : Params, (State.resetWith p).Inv

/-- Every step keeps the invariant, whatever host and memory do: memory's canonical form, the widths of the address registers,
BUSY and the phase (10_state.md R27), at most one of DONE and ERR (R29), ECODE and EPHASE 0 when ERR = 0 (R29), and where a
running HASH stands, with P + N = ADDR + LEN (R25; 43_hash_sequence.md R163, R164). -/
def Obligations.StepKeepsInvariant : Prop := ∀ s t : State, s.Inv → step s = .next t → t.Inv

/-- No step from a state that meets the invariant is refused or stuck: only the host's store outside the address space
faults. -/
def Obligations.InvariantStatesNeverStop : Prop :=
  ∀ s : State, s.Inv →
    (∃ t, step s = .next t) ∨
    (step s = .fault .noSuchAddress ∧ ∃ x v es, s.schedule = .memWrite x v :: es ∧ s.params.space ≤ x)

/-- 43_hash_sequence.md R171: inside HASH the only errors are RANGE from INIT and BUS from a read after it. -/
def Obligations.HashErrorsAreInitRangeOrBus : Prop :=
  ∀ (e : ByteOrder) (s t : State), s.Inv → s.hseq = true → exec (hashCommand e) s = .next t →
    (s.phase = .init → t.ecode = .none ∨ t.ecode = .range) ∧ (s.phase ≠ .init → t.ecode = .none ∨ t.ecode = .bus)

/-! ## The HASH command as a whole -/

/-- HASH computes the hash (00_scope.md R3; 43_hash_sequence.md R160, R166, R168): of a buffer inside the address space that
the memory holds and answers, from any values of the other registers, in exactly 6 steps for LEN ≤ 16 and 8 + floor(LEN / 16)
above, it leaves in RES the hash of the bytes, ends with DONE, and leaves W and its inputs alone. -/
def Obligations.HashComputesTheHash : Prop :=
  ∀ (e : ByteOrder) (s : State) (bs : List Byte),
    s.busy = false → s.inReset = false → s.schedule = [] → s.addr.toNat < s.params.space →
    s.addr.toNat + s.len.toNat ≤ s.params.space → bs.length = s.len.toNat →
    Memory.holds s.mem s.addr.toNat bs → s.answersAll s.addr.toNat bs.length →
    (∃ t, runsTo (if bs.length ≤ 16 then 6 else 8 + bs.length / 16) (s.acceptCommand (commandValue (hashCommand e))) t ∧
      t.res = hashValue s.params e bs s.seed ∧
      t.busy = false ∧ t.done = true ∧ t.err = false ∧ t.hseq = false ∧ t.phase = .idle ∧ t.n = 0 ∧
      t.p = BitVec.ofNat 64 ((s.addr.toNat + s.len.toNat) % s.params.space) ∧
      t.w = s.w ∧ t.addr = s.addr ∧ t.len = s.len ∧ t.seed = s.seed ∧ t.eaddr = s.eaddr ∧ t.ovr = s.ovr ∧
      t.mem = s.mem ∧ t.cmd = encode (hashCommand e)) ∧
    (∀ k, k < (if bs.length ≤ 16 then 6 else 8 + bs.length / 16) →
      ∃ u, runsTo k (s.acceptCommand (commandValue (hashCommand e))) u ∧ u.busy = true)

/-- 43_hash_sequence.md R170: a HASH that completes asks for every byte of `[ADDR, ADDR+LEN)` exactly once, in increasing
address order, and for no other byte. -/
def Obligations.HashReadsEachByteOnce : Prop :=
  ∀ (e : ByteOrder) (s : State) (bs : List Byte),
    s.busy = false → s.inReset = false → s.schedule = [] → s.addr.toNat < s.params.space →
    s.addr.toNat + s.len.toNat ≤ s.params.space → bs.length = s.len.toNat →
    Memory.holds s.mem s.addr.toNat bs → s.answersAll s.addr.toNat bs.length →
    ∃ t new, runsTo (hashSteps bs.length) (s.acceptCommand (commandValue (hashCommand e))) t ∧ t.done = true ∧
      t.busy = false ∧ t.reads = s.reads ++ new ∧ askedBytes new = List.range' s.addr.toNat s.len.toNat

/-- 43_hash_sequence.md R162, R163, R164: a HASH with LEN > 16 runs floor(LEN / 16) block steps, after which N = LEN mod 16 and
P = ADDR + 16 * floor(LEN / 16); with LEN ≤ 16 it goes from INIT to TAIL.Q4 with N = LEN and P = ADDR. -/
def Obligations.HashBulkPhase : Prop :=
  ∀ (e : ByteOrder) (s : State) (bs : List Byte),
    s.busy = false → s.inReset = false → s.schedule = [] → s.addr.toNat < s.params.space →
    s.addr.toNat + s.len.toNat ≤ s.params.space → bs.length = s.len.toNat →
    Memory.holds s.mem s.addr.toNat bs → s.answersAll s.addr.toNat bs.length →
    (16 < s.len.toNat →
      (∀ k, k < s.len.toNat / 16 →
        ∃ u, runsTo (2 + k) (s.acceptCommand (commandValue (hashCommand e))) u ∧ u.phase = .bulkBlock) ∧
      ∃ t, runsTo (2 + s.len.toNat / 16) (s.acceptCommand (commandValue (hashCommand e))) t ∧ t.phase = .bulkFold ∧
        t.n.toNat = s.len.toNat % 16 ∧
        t.p.toNat = (s.addr.toNat + 16 * (s.len.toNat / 16)) % s.params.space) ∧
    (s.len.toNat ≤ 16 →
      ∃ t, runsTo 1 (s.acceptCommand (commandValue (hashCommand e))) t ∧ t.phase = .tailQ4 ∧ t.n = s.len ∧ t.p = s.addr)

/-- 43_hash_sequence.md R167, R172: a HASH with LEN = 0 reads nothing, whatever ADDR is and whatever the memory does, and leaves
remix32 of the two halves of the seed, the same for both variants. -/
def Obligations.HashOfNothingReadsNothing : Prop :=
  ∀ (e : ByteOrder) (s : State), s.busy = false → s.inReset = false → s.schedule = [] → s.len = 0 →
    s.addr.toNat < s.params.space →
    ∃ t, runsTo 6 (s.acceptCommand (commandValue (hashCommand e))) t ∧ t.done = true ∧ t.busy = false ∧
      t.reads = s.reads ∧ t.res = (remix32 s.params (s.seed.setWidth 32) ((s.seed >>> 32).setWidth 32)).2 ∧
      (s.seed = 0 → t.res = 0)

/-- 43_hash_sequence.md R169 and 10_state.md R39: the value HASH leaves in RES depends on E, LEN, SEED, the bytes and the
constants only: not on ADDR, ADDR_W or UNALIGNED_OK, nor on any register before the command. -/
def Obligations.HashDependsOnItsInputsOnly : Prop :=
  ∀ (e : ByteOrder) (s u : State) (bs : List Byte),
    s.busy = false → s.inReset = false → s.schedule = [] → s.addr.toNat < s.params.space →
    s.addr.toNat + s.len.toNat ≤ s.params.space → bs.length = s.len.toNat →
    Memory.holds s.mem s.addr.toNat bs → s.answersAll s.addr.toNat bs.length →
    u.busy = false → u.inReset = false → u.schedule = [] → u.addr.toNat < u.params.space →
    u.addr.toNat + u.len.toNat ≤ u.params.space → u.len = s.len → u.seed = s.seed →
    Memory.holds u.mem u.addr.toNat bs → u.answersAll u.addr.toNat bs.length →
    u.params.q = s.params.q → u.params.p0 = s.params.p0 → u.params.s = s.params.s → u.params.beTail = s.params.beTail →
    ∃ s' u', runsTo (hashSteps bs.length) (s.acceptCommand (commandValue (hashCommand e))) s' ∧
      runsTo (hashSteps bs.length) (u.acceptCommand (commandValue (hashCommand e))) u' ∧ s'.res = u'.res

/-- 60_exceptions.md R198: the micro-operation commands issued one at a time in the order of R160 leave the same RES as HASH,
and the same accumulator, position, count and read history. -/
def Obligations.SingleSteppedHashAgrees : Prop :=
  ∀ (e : ByteOrder) (s : State) (bs : List Byte),
    s.busy = false → s.inReset = false → s.schedule = [] → s.addr.toNat < s.params.space →
    s.addr.toNat + s.len.toNat ≤ s.params.space → bs.length = s.len.toNat →
    Memory.holds s.mem s.addr.toNat bs → s.answersAll s.addr.toNat bs.length →
    ∃ t u, runsTo (hashSteps bs.length) (s.acceptCommand (commandValue (hashCommand e))) t ∧
      runCommands (hashCommands e bs.length) s = .next u ∧
      u.res = t.res ∧ u.a = t.a ∧ u.b = t.b ∧ u.c = t.c ∧ u.d = t.d ∧ u.p = t.p ∧ u.n = t.n ∧ u.w = t.w ∧
      u.reads = t.reads ∧ u.done = true ∧ t.done = true
end

