-- ==== Sys2Proof/Laws/Memory.lean ====
section
/-!
SUPPORT. The laws of the buffer memory: reading back a write, writes leave every other address alone, and every memory
operation keeps the canonical form and the bound.
-/

namespace Sys2Proof.Machine

theorem Memory.read_write_same (m : Memory) (a : Nat) (v : Byte) : Memory.read (Memory.write m a v) a = some v := by
  induction m with
  | nil => simp [Memory.write, Memory.read]
  | cons x m ih =>
    obtain ⟨x, y⟩ := x
    unfold Memory.write
    split
    · simp [Memory.read]
    · split
      · simp [Memory.read]
      · next h => simp [Memory.read, ih, Ne.symm (Ne.intro fun h' : x = a => h h'.symm)]

theorem Memory.read_write_other (m : Memory) (a b : Nat) (v : Byte) (h : b ≠ a) :
    Memory.read (Memory.write m a v) b = Memory.read m b := by
  induction m with
  | nil => simp [Memory.write, Memory.read, h]
  | cons x m ih =>
    obtain ⟨x, y⟩ := x
    unfold Memory.write
    split
    · simp [Memory.read, h]
    · split
      · next h' => subst h'; simp [Memory.read, h]
      · simp [Memory.read, ih]

/-- Canonical form of a list that begins with a cell: the cell lies below the next, and the rest is canonical. -/
theorem Memory.wf_cons (x : Host.Cell) (m : Memory) :
    Memory.wf (x :: m) = true ↔ (∀ y ∈ m.head?, x.1 < y.1) ∧ Memory.wf m = true := by
  cases m <;> simp [Memory.wf]

theorem Memory.head_write (m : Memory) (a : Nat) (v : Byte) (y : Host.Cell) (h : y ∈ (Memory.write m a v).head?) :
    y.1 = a ∨ y ∈ m.head? := by
  cases m with
  | nil => simp [Memory.write] at h; simp [← h]
  | cons x m =>
    obtain ⟨x, w⟩ := x
    unfold Memory.write at h
    split at h
    · simp at h; simp [← h]
    · split at h
      · simp at h; simp [← h]
      · simp at h; simp [← h]

/-- A write keeps the canonical form. -/
theorem Memory.write_wf (m : Memory) (a : Nat) (v : Byte) (h : Memory.wf m = true) :
    Memory.wf (Memory.write m a v) = true := by
  induction m with
  | nil => rfl
  | cons x m ih =>
    obtain ⟨x, w⟩ := x
    have hx := (Memory.wf_cons _ _).1 h
    unfold Memory.write
    split
    · next hlt => exact (Memory.wf_cons _ _).2 ⟨by simpa using hlt, h⟩
    · split
      · next heq => subst heq; exact (Memory.wf_cons _ _).2 hx
      · next hge hne =>
        refine (Memory.wf_cons _ _).2 ⟨fun y hy => ?_, ih hx.2⟩
        rcases Memory.head_write m a v y hy with hya | hym
        · simp only [hya]; omega
        · exact hx.1 y hym

/-- A write below the bound keeps every address below the bound. -/
theorem Memory.write_within (k : Nat) (m : Memory) (a : Nat) (v : Byte) (ha : a < k)
    (h : Memory.within k m = true) : Memory.within k (Memory.write m a v) = true := by
  induction m with
  | nil => simpa [Memory.write, Memory.within] using ha
  | cons x m ih =>
    obtain ⟨x, w⟩ := x
    simp only [Memory.within, List.all_cons, Bool.and_eq_true, decide_eq_true_eq] at h ih ⊢
    unfold Memory.write
    split
    · simp only [List.all_cons, Bool.and_eq_true, decide_eq_true_eq]; exact ⟨ha, h⟩
    · split
      · simp only [List.all_cons, Bool.and_eq_true, decide_eq_true_eq]; exact ⟨ha, h.2⟩
      · simp only [List.all_cons, Bool.and_eq_true, decide_eq_true_eq]; exact ⟨h.1, ih h.2⟩

theorem Memory.holds_tail (m : Memory) (x : Nat) (v : Byte) (bs : List Byte) (h : Memory.holds m x (v :: bs)) :
    Memory.read m x = some v ∧ Memory.holds m (x + 1) bs := by
  refine ⟨h 0 (by simp), fun i hi => ?_⟩
  have := h (i + 1) (by simpa using hi)
  simpa [Nat.add_assoc, Nat.add_comm 1 i] using this

theorem Memory.holds_drop (m : Memory) (x k : Nat) (bs : List Byte) (h : Memory.holds m x bs) :
    Memory.holds m (x + k) (bs.drop k) := by
  intro i hi
  simp only [List.length_drop] at hi
  have := h (k + i) (by omega)
  simpa [Nat.add_assoc] using this

theorem Memory.holds_take (m : Memory) (x k : Nat) (bs : List Byte) (h : Memory.holds m x bs) :
    Memory.holds m x (bs.take k) := by
  intro i hi
  simp only [List.length_take] at hi
  have := h i (by omega)
  simpa using this

end Sys2Proof.Machine
end

