-- ==== Sys2Proof/Laws/State.lean ====
section
/-!
SUPPORT. The fields of State after each named update: one lemma per field per update, each true by rfl.
-/

namespace Sys2Proof.Machine

variable (s : State)

/-! ### setAB -/

@[simp] theorem State.setAB_params (x y : Word) : (s.setAB x y).params = s.params := rfl
@[simp] theorem State.setAB_cmd (x y : Word) : (s.setAB x y).cmd = s.cmd := rfl
@[simp] theorem State.setAB_busy (x y : Word) : (s.setAB x y).busy = s.busy := rfl
@[simp] theorem State.setAB_done (x y : Word) : (s.setAB x y).done = s.done := rfl
@[simp] theorem State.setAB_err (x y : Word) : (s.setAB x y).err = s.err := rfl
@[simp] theorem State.setAB_ovr (x y : Word) : (s.setAB x y).ovr = s.ovr := rfl
@[simp] theorem State.setAB_ecode (x y : Word) : (s.setAB x y).ecode = s.ecode := rfl
@[simp] theorem State.setAB_phase (x y : Word) : (s.setAB x y).phase = s.phase := rfl
@[simp] theorem State.setAB_hseq (x y : Word) : (s.setAB x y).hseq = s.hseq := rfl
@[simp] theorem State.setAB_ecur (x y : Word) : (s.setAB x y).ecur = s.ecur := rfl
@[simp] theorem State.setAB_ephase (x y : Word) : (s.setAB x y).ephase = s.ephase := rfl
@[simp] theorem State.setAB_cur (x y : Word) : (s.setAB x y).cur = s.cur := rfl
@[simp] theorem State.setAB_addr (x y : Word) : (s.setAB x y).addr = s.addr := rfl
@[simp] theorem State.setAB_len (x y : Word) : (s.setAB x y).len = s.len := rfl
@[simp] theorem State.setAB_seed (x y : Word) : (s.setAB x y).seed = s.seed := rfl
@[simp] theorem State.setAB_a (x y : Word) : (s.setAB x y).a = x := rfl
@[simp] theorem State.setAB_b (x y : Word) : (s.setAB x y).b = y := rfl
@[simp] theorem State.setAB_c (x y : Word) : (s.setAB x y).c = s.c := rfl
@[simp] theorem State.setAB_d (x y : Word) : (s.setAB x y).d = s.d := rfl
@[simp] theorem State.setAB_p (x y : Word) : (s.setAB x y).p = s.p := rfl
@[simp] theorem State.setAB_n (x y : Word) : (s.setAB x y).n = s.n := rfl
@[simp] theorem State.setAB_w (x y : Word) : (s.setAB x y).w = s.w := rfl
@[simp] theorem State.setAB_res (x y : Word) : (s.setAB x y).res = s.res := rfl
@[simp] theorem State.setAB_eaddr (x y : Word) : (s.setAB x y).eaddr = s.eaddr := rfl
@[simp] theorem State.setAB_alignbuf (x y : Word) : (s.setAB x y).alignbuf = s.alignbuf := rfl
@[simp] theorem State.setAB_inReset (x y : Word) : (s.setAB x y).inReset = s.inReset := rfl
@[simp] theorem State.setAB_mem (x y : Word) : (s.setAB x y).mem = s.mem := rfl
@[simp] theorem State.setAB_failing (x y : Word) : (s.setAB x y).failing = s.failing := rfl
@[simp] theorem State.setAB_held (x y : Word) : (s.setAB x y).held = s.held := rfl
@[simp] theorem State.setAB_freeIx (x y : Word) : (s.setAB x y).freeIx = s.freeIx := rfl
@[simp] theorem State.setAB_reads (x y : Word) : (s.setAB x y).reads = s.reads := rfl
@[simp] theorem State.setAB_rdata (x y : Word) : (s.setAB x y).rdata = s.rdata := rfl
@[simp] theorem State.setAB_schedule (x y : Word) : (s.setAB x y).schedule = s.schedule := rfl

/-! ### setAcc -/

@[simp] theorem State.setAcc_params (v : Acc) : (s.setAcc v).params = s.params := rfl
@[simp] theorem State.setAcc_cmd (v : Acc) : (s.setAcc v).cmd = s.cmd := rfl
@[simp] theorem State.setAcc_busy (v : Acc) : (s.setAcc v).busy = s.busy := rfl
@[simp] theorem State.setAcc_done (v : Acc) : (s.setAcc v).done = s.done := rfl
@[simp] theorem State.setAcc_err (v : Acc) : (s.setAcc v).err = s.err := rfl
@[simp] theorem State.setAcc_ovr (v : Acc) : (s.setAcc v).ovr = s.ovr := rfl
@[simp] theorem State.setAcc_ecode (v : Acc) : (s.setAcc v).ecode = s.ecode := rfl
@[simp] theorem State.setAcc_phase (v : Acc) : (s.setAcc v).phase = s.phase := rfl
@[simp] theorem State.setAcc_hseq (v : Acc) : (s.setAcc v).hseq = s.hseq := rfl
@[simp] theorem State.setAcc_ecur (v : Acc) : (s.setAcc v).ecur = s.ecur := rfl
@[simp] theorem State.setAcc_ephase (v : Acc) : (s.setAcc v).ephase = s.ephase := rfl
@[simp] theorem State.setAcc_cur (v : Acc) : (s.setAcc v).cur = s.cur := rfl
@[simp] theorem State.setAcc_addr (v : Acc) : (s.setAcc v).addr = s.addr := rfl
@[simp] theorem State.setAcc_len (v : Acc) : (s.setAcc v).len = s.len := rfl
@[simp] theorem State.setAcc_seed (v : Acc) : (s.setAcc v).seed = s.seed := rfl
@[simp] theorem State.setAcc_a (v : Acc) : (s.setAcc v).a = v.a := rfl
@[simp] theorem State.setAcc_b (v : Acc) : (s.setAcc v).b = v.b := rfl
@[simp] theorem State.setAcc_c (v : Acc) : (s.setAcc v).c = v.c := rfl
@[simp] theorem State.setAcc_d (v : Acc) : (s.setAcc v).d = v.d := rfl
@[simp] theorem State.setAcc_p (v : Acc) : (s.setAcc v).p = s.p := rfl
@[simp] theorem State.setAcc_n (v : Acc) : (s.setAcc v).n = s.n := rfl
@[simp] theorem State.setAcc_w (v : Acc) : (s.setAcc v).w = s.w := rfl
@[simp] theorem State.setAcc_res (v : Acc) : (s.setAcc v).res = s.res := rfl
@[simp] theorem State.setAcc_eaddr (v : Acc) : (s.setAcc v).eaddr = s.eaddr := rfl
@[simp] theorem State.setAcc_alignbuf (v : Acc) : (s.setAcc v).alignbuf = s.alignbuf := rfl
@[simp] theorem State.setAcc_inReset (v : Acc) : (s.setAcc v).inReset = s.inReset := rfl
@[simp] theorem State.setAcc_mem (v : Acc) : (s.setAcc v).mem = s.mem := rfl
@[simp] theorem State.setAcc_failing (v : Acc) : (s.setAcc v).failing = s.failing := rfl
@[simp] theorem State.setAcc_held (v : Acc) : (s.setAcc v).held = s.held := rfl
@[simp] theorem State.setAcc_freeIx (v : Acc) : (s.setAcc v).freeIx = s.freeIx := rfl
@[simp] theorem State.setAcc_reads (v : Acc) : (s.setAcc v).reads = s.reads := rfl
@[simp] theorem State.setAcc_rdata (v : Acc) : (s.setAcc v).rdata = s.rdata := rfl
@[simp] theorem State.setAcc_schedule (v : Acc) : (s.setAcc v).schedule = s.schedule := rfl

/-! ### setW -/

@[simp] theorem State.setW_params (v : Word) : (s.setW v).params = s.params := rfl
@[simp] theorem State.setW_cmd (v : Word) : (s.setW v).cmd = s.cmd := rfl
@[simp] theorem State.setW_busy (v : Word) : (s.setW v).busy = s.busy := rfl
@[simp] theorem State.setW_done (v : Word) : (s.setW v).done = s.done := rfl
@[simp] theorem State.setW_err (v : Word) : (s.setW v).err = s.err := rfl
@[simp] theorem State.setW_ovr (v : Word) : (s.setW v).ovr = s.ovr := rfl
@[simp] theorem State.setW_ecode (v : Word) : (s.setW v).ecode = s.ecode := rfl
@[simp] theorem State.setW_phase (v : Word) : (s.setW v).phase = s.phase := rfl
@[simp] theorem State.setW_hseq (v : Word) : (s.setW v).hseq = s.hseq := rfl
@[simp] theorem State.setW_ecur (v : Word) : (s.setW v).ecur = s.ecur := rfl
@[simp] theorem State.setW_ephase (v : Word) : (s.setW v).ephase = s.ephase := rfl
@[simp] theorem State.setW_cur (v : Word) : (s.setW v).cur = s.cur := rfl
@[simp] theorem State.setW_addr (v : Word) : (s.setW v).addr = s.addr := rfl
@[simp] theorem State.setW_len (v : Word) : (s.setW v).len = s.len := rfl
@[simp] theorem State.setW_seed (v : Word) : (s.setW v).seed = s.seed := rfl
@[simp] theorem State.setW_a (v : Word) : (s.setW v).a = s.a := rfl
@[simp] theorem State.setW_b (v : Word) : (s.setW v).b = s.b := rfl
@[simp] theorem State.setW_c (v : Word) : (s.setW v).c = s.c := rfl
@[simp] theorem State.setW_d (v : Word) : (s.setW v).d = s.d := rfl
@[simp] theorem State.setW_p (v : Word) : (s.setW v).p = s.p := rfl
@[simp] theorem State.setW_n (v : Word) : (s.setW v).n = s.n := rfl
@[simp] theorem State.setW_w (v : Word) : (s.setW v).w = v := rfl
@[simp] theorem State.setW_res (v : Word) : (s.setW v).res = s.res := rfl
@[simp] theorem State.setW_eaddr (v : Word) : (s.setW v).eaddr = s.eaddr := rfl
@[simp] theorem State.setW_alignbuf (v : Word) : (s.setW v).alignbuf = s.alignbuf := rfl
@[simp] theorem State.setW_inReset (v : Word) : (s.setW v).inReset = s.inReset := rfl
@[simp] theorem State.setW_mem (v : Word) : (s.setW v).mem = s.mem := rfl
@[simp] theorem State.setW_failing (v : Word) : (s.setW v).failing = s.failing := rfl
@[simp] theorem State.setW_held (v : Word) : (s.setW v).held = s.held := rfl
@[simp] theorem State.setW_freeIx (v : Word) : (s.setW v).freeIx = s.freeIx := rfl
@[simp] theorem State.setW_reads (v : Word) : (s.setW v).reads = s.reads := rfl
@[simp] theorem State.setW_rdata (v : Word) : (s.setW v).rdata = s.rdata := rfl
@[simp] theorem State.setW_schedule (v : Word) : (s.setW v).schedule = s.schedule := rfl

/-! ### setRes -/

@[simp] theorem State.setRes_params (v : Dword) : (s.setRes v).params = s.params := rfl
@[simp] theorem State.setRes_cmd (v : Dword) : (s.setRes v).cmd = s.cmd := rfl
@[simp] theorem State.setRes_busy (v : Dword) : (s.setRes v).busy = s.busy := rfl
@[simp] theorem State.setRes_done (v : Dword) : (s.setRes v).done = s.done := rfl
@[simp] theorem State.setRes_err (v : Dword) : (s.setRes v).err = s.err := rfl
@[simp] theorem State.setRes_ovr (v : Dword) : (s.setRes v).ovr = s.ovr := rfl
@[simp] theorem State.setRes_ecode (v : Dword) : (s.setRes v).ecode = s.ecode := rfl
@[simp] theorem State.setRes_phase (v : Dword) : (s.setRes v).phase = s.phase := rfl
@[simp] theorem State.setRes_hseq (v : Dword) : (s.setRes v).hseq = s.hseq := rfl
@[simp] theorem State.setRes_ecur (v : Dword) : (s.setRes v).ecur = s.ecur := rfl
@[simp] theorem State.setRes_ephase (v : Dword) : (s.setRes v).ephase = s.ephase := rfl
@[simp] theorem State.setRes_cur (v : Dword) : (s.setRes v).cur = s.cur := rfl
@[simp] theorem State.setRes_addr (v : Dword) : (s.setRes v).addr = s.addr := rfl
@[simp] theorem State.setRes_len (v : Dword) : (s.setRes v).len = s.len := rfl
@[simp] theorem State.setRes_seed (v : Dword) : (s.setRes v).seed = s.seed := rfl
@[simp] theorem State.setRes_a (v : Dword) : (s.setRes v).a = s.a := rfl
@[simp] theorem State.setRes_b (v : Dword) : (s.setRes v).b = s.b := rfl
@[simp] theorem State.setRes_c (v : Dword) : (s.setRes v).c = s.c := rfl
@[simp] theorem State.setRes_d (v : Dword) : (s.setRes v).d = s.d := rfl
@[simp] theorem State.setRes_p (v : Dword) : (s.setRes v).p = s.p := rfl
@[simp] theorem State.setRes_n (v : Dword) : (s.setRes v).n = s.n := rfl
@[simp] theorem State.setRes_w (v : Dword) : (s.setRes v).w = s.w := rfl
@[simp] theorem State.setRes_res (v : Dword) : (s.setRes v).res = v := rfl
@[simp] theorem State.setRes_eaddr (v : Dword) : (s.setRes v).eaddr = s.eaddr := rfl
@[simp] theorem State.setRes_alignbuf (v : Dword) : (s.setRes v).alignbuf = s.alignbuf := rfl
@[simp] theorem State.setRes_inReset (v : Dword) : (s.setRes v).inReset = s.inReset := rfl
@[simp] theorem State.setRes_mem (v : Dword) : (s.setRes v).mem = s.mem := rfl
@[simp] theorem State.setRes_failing (v : Dword) : (s.setRes v).failing = s.failing := rfl
@[simp] theorem State.setRes_held (v : Dword) : (s.setRes v).held = s.held := rfl
@[simp] theorem State.setRes_freeIx (v : Dword) : (s.setRes v).freeIx = s.freeIx := rfl
@[simp] theorem State.setRes_reads (v : Dword) : (s.setRes v).reads = s.reads := rfl
@[simp] theorem State.setRes_rdata (v : Dword) : (s.setRes v).rdata = s.rdata := rfl
@[simp] theorem State.setRes_schedule (v : Dword) : (s.setRes v).schedule = s.schedule := rfl

/-! ### setPN -/

@[simp] theorem State.setPN_params (x : Addr) (y : Dword) : (s.setPN x y).params = s.params := rfl
@[simp] theorem State.setPN_cmd (x : Addr) (y : Dword) : (s.setPN x y).cmd = s.cmd := rfl
@[simp] theorem State.setPN_busy (x : Addr) (y : Dword) : (s.setPN x y).busy = s.busy := rfl
@[simp] theorem State.setPN_done (x : Addr) (y : Dword) : (s.setPN x y).done = s.done := rfl
@[simp] theorem State.setPN_err (x : Addr) (y : Dword) : (s.setPN x y).err = s.err := rfl
@[simp] theorem State.setPN_ovr (x : Addr) (y : Dword) : (s.setPN x y).ovr = s.ovr := rfl
@[simp] theorem State.setPN_ecode (x : Addr) (y : Dword) : (s.setPN x y).ecode = s.ecode := rfl
@[simp] theorem State.setPN_phase (x : Addr) (y : Dword) : (s.setPN x y).phase = s.phase := rfl
@[simp] theorem State.setPN_hseq (x : Addr) (y : Dword) : (s.setPN x y).hseq = s.hseq := rfl
@[simp] theorem State.setPN_ecur (x : Addr) (y : Dword) : (s.setPN x y).ecur = s.ecur := rfl
@[simp] theorem State.setPN_ephase (x : Addr) (y : Dword) : (s.setPN x y).ephase = s.ephase := rfl
@[simp] theorem State.setPN_cur (x : Addr) (y : Dword) : (s.setPN x y).cur = s.cur := rfl
@[simp] theorem State.setPN_addr (x : Addr) (y : Dword) : (s.setPN x y).addr = s.addr := rfl
@[simp] theorem State.setPN_len (x : Addr) (y : Dword) : (s.setPN x y).len = s.len := rfl
@[simp] theorem State.setPN_seed (x : Addr) (y : Dword) : (s.setPN x y).seed = s.seed := rfl
@[simp] theorem State.setPN_a (x : Addr) (y : Dword) : (s.setPN x y).a = s.a := rfl
@[simp] theorem State.setPN_b (x : Addr) (y : Dword) : (s.setPN x y).b = s.b := rfl
@[simp] theorem State.setPN_c (x : Addr) (y : Dword) : (s.setPN x y).c = s.c := rfl
@[simp] theorem State.setPN_d (x : Addr) (y : Dword) : (s.setPN x y).d = s.d := rfl
@[simp] theorem State.setPN_p (x : Addr) (y : Dword) : (s.setPN x y).p = truncAddr s.params x := rfl
@[simp] theorem State.setPN_n (x : Addr) (y : Dword) : (s.setPN x y).n = y := rfl
@[simp] theorem State.setPN_w (x : Addr) (y : Dword) : (s.setPN x y).w = s.w := rfl
@[simp] theorem State.setPN_res (x : Addr) (y : Dword) : (s.setPN x y).res = s.res := rfl
@[simp] theorem State.setPN_eaddr (x : Addr) (y : Dword) : (s.setPN x y).eaddr = s.eaddr := rfl
@[simp] theorem State.setPN_alignbuf (x : Addr) (y : Dword) : (s.setPN x y).alignbuf = s.alignbuf := rfl
@[simp] theorem State.setPN_inReset (x : Addr) (y : Dword) : (s.setPN x y).inReset = s.inReset := rfl
@[simp] theorem State.setPN_mem (x : Addr) (y : Dword) : (s.setPN x y).mem = s.mem := rfl
@[simp] theorem State.setPN_failing (x : Addr) (y : Dword) : (s.setPN x y).failing = s.failing := rfl
@[simp] theorem State.setPN_held (x : Addr) (y : Dword) : (s.setPN x y).held = s.held := rfl
@[simp] theorem State.setPN_freeIx (x : Addr) (y : Dword) : (s.setPN x y).freeIx = s.freeIx := rfl
@[simp] theorem State.setPN_reads (x : Addr) (y : Dword) : (s.setPN x y).reads = s.reads := rfl
@[simp] theorem State.setPN_rdata (x : Addr) (y : Dword) : (s.setPN x y).rdata = s.rdata := rfl
@[simp] theorem State.setPN_schedule (x : Addr) (y : Dword) : (s.setPN x y).schedule = s.schedule := rfl

/-! ### noteReads -/

@[simp] theorem State.noteReads_params (st : Bool) (bs : List Byte) (qs : List Request) : (s.noteReads st bs qs).params = s.params := rfl
@[simp] theorem State.noteReads_cmd (st : Bool) (bs : List Byte) (qs : List Request) : (s.noteReads st bs qs).cmd = s.cmd := rfl
@[simp] theorem State.noteReads_busy (st : Bool) (bs : List Byte) (qs : List Request) : (s.noteReads st bs qs).busy = s.busy := rfl
@[simp] theorem State.noteReads_done (st : Bool) (bs : List Byte) (qs : List Request) : (s.noteReads st bs qs).done = s.done := rfl
@[simp] theorem State.noteReads_err (st : Bool) (bs : List Byte) (qs : List Request) : (s.noteReads st bs qs).err = s.err := rfl
@[simp] theorem State.noteReads_ovr (st : Bool) (bs : List Byte) (qs : List Request) : (s.noteReads st bs qs).ovr = s.ovr := rfl
@[simp] theorem State.noteReads_ecode (st : Bool) (bs : List Byte) (qs : List Request) : (s.noteReads st bs qs).ecode = s.ecode := rfl
@[simp] theorem State.noteReads_phase (st : Bool) (bs : List Byte) (qs : List Request) : (s.noteReads st bs qs).phase = s.phase := rfl
@[simp] theorem State.noteReads_hseq (st : Bool) (bs : List Byte) (qs : List Request) : (s.noteReads st bs qs).hseq = s.hseq := rfl
@[simp] theorem State.noteReads_ecur (st : Bool) (bs : List Byte) (qs : List Request) : (s.noteReads st bs qs).ecur = s.ecur := rfl
@[simp] theorem State.noteReads_ephase (st : Bool) (bs : List Byte) (qs : List Request) : (s.noteReads st bs qs).ephase = s.ephase := rfl
@[simp] theorem State.noteReads_cur (st : Bool) (bs : List Byte) (qs : List Request) : (s.noteReads st bs qs).cur = s.cur := rfl
@[simp] theorem State.noteReads_addr (st : Bool) (bs : List Byte) (qs : List Request) : (s.noteReads st bs qs).addr = s.addr := rfl
@[simp] theorem State.noteReads_len (st : Bool) (bs : List Byte) (qs : List Request) : (s.noteReads st bs qs).len = s.len := rfl
@[simp] theorem State.noteReads_seed (st : Bool) (bs : List Byte) (qs : List Request) : (s.noteReads st bs qs).seed = s.seed := rfl
@[simp] theorem State.noteReads_a (st : Bool) (bs : List Byte) (qs : List Request) : (s.noteReads st bs qs).a = s.a := rfl
@[simp] theorem State.noteReads_b (st : Bool) (bs : List Byte) (qs : List Request) : (s.noteReads st bs qs).b = s.b := rfl
@[simp] theorem State.noteReads_c (st : Bool) (bs : List Byte) (qs : List Request) : (s.noteReads st bs qs).c = s.c := rfl
@[simp] theorem State.noteReads_d (st : Bool) (bs : List Byte) (qs : List Request) : (s.noteReads st bs qs).d = s.d := rfl
@[simp] theorem State.noteReads_p (st : Bool) (bs : List Byte) (qs : List Request) : (s.noteReads st bs qs).p = s.p := rfl
@[simp] theorem State.noteReads_n (st : Bool) (bs : List Byte) (qs : List Request) : (s.noteReads st bs qs).n = s.n := rfl
@[simp] theorem State.noteReads_w (st : Bool) (bs : List Byte) (qs : List Request) : (s.noteReads st bs qs).w = s.w := rfl
@[simp] theorem State.noteReads_res (st : Bool) (bs : List Byte) (qs : List Request) : (s.noteReads st bs qs).res = s.res := rfl
@[simp] theorem State.noteReads_eaddr (st : Bool) (bs : List Byte) (qs : List Request) : (s.noteReads st bs qs).eaddr = s.eaddr := rfl
@[simp] theorem State.noteReads_alignbuf (st : Bool) (bs : List Byte) (qs : List Request) : (s.noteReads st bs qs).alignbuf = if st then stageFrom 0 s.alignbuf bs else s.alignbuf := rfl
@[simp] theorem State.noteReads_inReset (st : Bool) (bs : List Byte) (qs : List Request) : (s.noteReads st bs qs).inReset = s.inReset := rfl
@[simp] theorem State.noteReads_mem (st : Bool) (bs : List Byte) (qs : List Request) : (s.noteReads st bs qs).mem = s.mem := rfl
@[simp] theorem State.noteReads_failing (st : Bool) (bs : List Byte) (qs : List Request) : (s.noteReads st bs qs).failing = s.failing := rfl
@[simp] theorem State.noteReads_held (st : Bool) (bs : List Byte) (qs : List Request) : (s.noteReads st bs qs).held = s.held := rfl
@[simp] theorem State.noteReads_freeIx (st : Bool) (bs : List Byte) (qs : List Request) : (s.noteReads st bs qs).freeIx = s.freeIx + 1 := rfl
@[simp] theorem State.noteReads_reads (st : Bool) (bs : List Byte) (qs : List Request) : (s.noteReads st bs qs).reads = s.reads ++ qs := rfl
@[simp] theorem State.noteReads_rdata (st : Bool) (bs : List Byte) (qs : List Request) : (s.noteReads st bs qs).rdata = s.rdata := rfl
@[simp] theorem State.noteReads_schedule (st : Bool) (bs : List Byte) (qs : List Request) : (s.noteReads st bs qs).schedule = s.schedule := rfl

/-! ### reportError -/

@[simp] theorem State.reportError_params (k : ECode) (ph : Phase) (x : Option Nat) : (s.reportError k ph x).params = s.params := rfl
@[simp] theorem State.reportError_cmd (k : ECode) (ph : Phase) (x : Option Nat) : (s.reportError k ph x).cmd = s.cmd := rfl
@[simp] theorem State.reportError_busy (k : ECode) (ph : Phase) (x : Option Nat) : (s.reportError k ph x).busy = s.busy := rfl
@[simp] theorem State.reportError_done (k : ECode) (ph : Phase) (x : Option Nat) : (s.reportError k ph x).done = s.done := rfl
@[simp] theorem State.reportError_err (k : ECode) (ph : Phase) (x : Option Nat) : (s.reportError k ph x).err = true := rfl
@[simp] theorem State.reportError_ovr (k : ECode) (ph : Phase) (x : Option Nat) : (s.reportError k ph x).ovr = s.ovr := rfl
@[simp] theorem State.reportError_ecode (k : ECode) (ph : Phase) (x : Option Nat) : (s.reportError k ph x).ecode = k := rfl
@[simp] theorem State.reportError_phase (k : ECode) (ph : Phase) (x : Option Nat) : (s.reportError k ph x).phase = s.phase := rfl
@[simp] theorem State.reportError_hseq (k : ECode) (ph : Phase) (x : Option Nat) : (s.reportError k ph x).hseq = s.hseq := rfl
@[simp] theorem State.reportError_ecur (k : ECode) (ph : Phase) (x : Option Nat) : (s.reportError k ph x).ecur = s.ecur := rfl
@[simp] theorem State.reportError_ephase (k : ECode) (ph : Phase) (x : Option Nat) : (s.reportError k ph x).ephase = ph := rfl
@[simp] theorem State.reportError_cur (k : ECode) (ph : Phase) (x : Option Nat) : (s.reportError k ph x).cur = s.cur := rfl
@[simp] theorem State.reportError_addr (k : ECode) (ph : Phase) (x : Option Nat) : (s.reportError k ph x).addr = s.addr := rfl
@[simp] theorem State.reportError_len (k : ECode) (ph : Phase) (x : Option Nat) : (s.reportError k ph x).len = s.len := rfl
@[simp] theorem State.reportError_seed (k : ECode) (ph : Phase) (x : Option Nat) : (s.reportError k ph x).seed = s.seed := rfl
@[simp] theorem State.reportError_a (k : ECode) (ph : Phase) (x : Option Nat) : (s.reportError k ph x).a = s.a := rfl
@[simp] theorem State.reportError_b (k : ECode) (ph : Phase) (x : Option Nat) : (s.reportError k ph x).b = s.b := rfl
@[simp] theorem State.reportError_c (k : ECode) (ph : Phase) (x : Option Nat) : (s.reportError k ph x).c = s.c := rfl
@[simp] theorem State.reportError_d (k : ECode) (ph : Phase) (x : Option Nat) : (s.reportError k ph x).d = s.d := rfl
@[simp] theorem State.reportError_p (k : ECode) (ph : Phase) (x : Option Nat) : (s.reportError k ph x).p = s.p := rfl
@[simp] theorem State.reportError_n (k : ECode) (ph : Phase) (x : Option Nat) : (s.reportError k ph x).n = s.n := rfl
@[simp] theorem State.reportError_w (k : ECode) (ph : Phase) (x : Option Nat) : (s.reportError k ph x).w = s.w := rfl
@[simp] theorem State.reportError_res (k : ECode) (ph : Phase) (x : Option Nat) : (s.reportError k ph x).res = s.res := rfl
@[simp] theorem State.reportError_eaddr (k : ECode) (ph : Phase) (x : Option Nat) : (s.reportError k ph x).eaddr = match x with | none => s.eaddr | some y => truncAddr s.params (BitVec.ofNat 64 y) := rfl
@[simp] theorem State.reportError_alignbuf (k : ECode) (ph : Phase) (x : Option Nat) : (s.reportError k ph x).alignbuf = s.alignbuf := rfl
@[simp] theorem State.reportError_inReset (k : ECode) (ph : Phase) (x : Option Nat) : (s.reportError k ph x).inReset = s.inReset := rfl
@[simp] theorem State.reportError_mem (k : ECode) (ph : Phase) (x : Option Nat) : (s.reportError k ph x).mem = s.mem := rfl
@[simp] theorem State.reportError_failing (k : ECode) (ph : Phase) (x : Option Nat) : (s.reportError k ph x).failing = s.failing := rfl
@[simp] theorem State.reportError_held (k : ECode) (ph : Phase) (x : Option Nat) : (s.reportError k ph x).held = s.held := rfl
@[simp] theorem State.reportError_freeIx (k : ECode) (ph : Phase) (x : Option Nat) : (s.reportError k ph x).freeIx = s.freeIx := rfl
@[simp] theorem State.reportError_reads (k : ECode) (ph : Phase) (x : Option Nat) : (s.reportError k ph x).reads = s.reads := rfl
@[simp] theorem State.reportError_rdata (k : ECode) (ph : Phase) (x : Option Nat) : (s.reportError k ph x).rdata = s.rdata := rfl
@[simp] theorem State.reportError_schedule (k : ECode) (ph : Phase) (x : Option Nat) : (s.reportError k ph x).schedule = s.schedule := rfl

/-! ### stopEngine -/

@[simp] theorem State.stopEngine_params : (s.stopEngine).params = s.params := rfl
@[simp] theorem State.stopEngine_cmd : (s.stopEngine).cmd = s.cmd := rfl
@[simp] theorem State.stopEngine_busy : (s.stopEngine).busy = false := rfl
@[simp] theorem State.stopEngine_done : (s.stopEngine).done = s.done := rfl
@[simp] theorem State.stopEngine_err : (s.stopEngine).err = s.err := rfl
@[simp] theorem State.stopEngine_ovr : (s.stopEngine).ovr = s.ovr := rfl
@[simp] theorem State.stopEngine_ecode : (s.stopEngine).ecode = s.ecode := rfl
@[simp] theorem State.stopEngine_phase : (s.stopEngine).phase = .idle := rfl
@[simp] theorem State.stopEngine_hseq : (s.stopEngine).hseq = false := rfl
@[simp] theorem State.stopEngine_ecur : (s.stopEngine).ecur = s.ecur := rfl
@[simp] theorem State.stopEngine_ephase : (s.stopEngine).ephase = s.ephase := rfl
@[simp] theorem State.stopEngine_cur : (s.stopEngine).cur = s.cur := rfl
@[simp] theorem State.stopEngine_addr : (s.stopEngine).addr = s.addr := rfl
@[simp] theorem State.stopEngine_len : (s.stopEngine).len = s.len := rfl
@[simp] theorem State.stopEngine_seed : (s.stopEngine).seed = s.seed := rfl
@[simp] theorem State.stopEngine_a : (s.stopEngine).a = s.a := rfl
@[simp] theorem State.stopEngine_b : (s.stopEngine).b = s.b := rfl
@[simp] theorem State.stopEngine_c : (s.stopEngine).c = s.c := rfl
@[simp] theorem State.stopEngine_d : (s.stopEngine).d = s.d := rfl
@[simp] theorem State.stopEngine_p : (s.stopEngine).p = s.p := rfl
@[simp] theorem State.stopEngine_n : (s.stopEngine).n = s.n := rfl
@[simp] theorem State.stopEngine_w : (s.stopEngine).w = s.w := rfl
@[simp] theorem State.stopEngine_res : (s.stopEngine).res = s.res := rfl
@[simp] theorem State.stopEngine_eaddr : (s.stopEngine).eaddr = s.eaddr := rfl
@[simp] theorem State.stopEngine_alignbuf : (s.stopEngine).alignbuf = s.alignbuf := rfl
@[simp] theorem State.stopEngine_inReset : (s.stopEngine).inReset = s.inReset := rfl
@[simp] theorem State.stopEngine_mem : (s.stopEngine).mem = s.mem := rfl
@[simp] theorem State.stopEngine_failing : (s.stopEngine).failing = s.failing := rfl
@[simp] theorem State.stopEngine_held : (s.stopEngine).held = s.held := rfl
@[simp] theorem State.stopEngine_freeIx : (s.stopEngine).freeIx = s.freeIx := rfl
@[simp] theorem State.stopEngine_reads : (s.stopEngine).reads = s.reads := rfl
@[simp] theorem State.stopEngine_rdata : (s.stopEngine).rdata = s.rdata := rfl
@[simp] theorem State.stopEngine_schedule : (s.stopEngine).schedule = s.schedule := rfl

/-! ### endCommand -/

@[simp] theorem State.endCommand_params : (s.endCommand).params = s.params := rfl
@[simp] theorem State.endCommand_cmd : (s.endCommand).cmd = s.cmd := rfl
@[simp] theorem State.endCommand_busy : (s.endCommand).busy = false := rfl
@[simp] theorem State.endCommand_done : (s.endCommand).done = true := rfl
@[simp] theorem State.endCommand_err : (s.endCommand).err = s.err := rfl
@[simp] theorem State.endCommand_ovr : (s.endCommand).ovr = s.ovr := rfl
@[simp] theorem State.endCommand_ecode : (s.endCommand).ecode = s.ecode := rfl
@[simp] theorem State.endCommand_phase : (s.endCommand).phase = .idle := rfl
@[simp] theorem State.endCommand_hseq : (s.endCommand).hseq = s.hseq := rfl
@[simp] theorem State.endCommand_ecur : (s.endCommand).ecur = s.ecur := rfl
@[simp] theorem State.endCommand_ephase : (s.endCommand).ephase = s.ephase := rfl
@[simp] theorem State.endCommand_cur : (s.endCommand).cur = s.cur := rfl
@[simp] theorem State.endCommand_addr : (s.endCommand).addr = s.addr := rfl
@[simp] theorem State.endCommand_len : (s.endCommand).len = s.len := rfl
@[simp] theorem State.endCommand_seed : (s.endCommand).seed = s.seed := rfl
@[simp] theorem State.endCommand_a : (s.endCommand).a = s.a := rfl
@[simp] theorem State.endCommand_b : (s.endCommand).b = s.b := rfl
@[simp] theorem State.endCommand_c : (s.endCommand).c = s.c := rfl
@[simp] theorem State.endCommand_d : (s.endCommand).d = s.d := rfl
@[simp] theorem State.endCommand_p : (s.endCommand).p = s.p := rfl
@[simp] theorem State.endCommand_n : (s.endCommand).n = s.n := rfl
@[simp] theorem State.endCommand_w : (s.endCommand).w = s.w := rfl
@[simp] theorem State.endCommand_res : (s.endCommand).res = s.res := rfl
@[simp] theorem State.endCommand_eaddr : (s.endCommand).eaddr = s.eaddr := rfl
@[simp] theorem State.endCommand_alignbuf : (s.endCommand).alignbuf = s.alignbuf := rfl
@[simp] theorem State.endCommand_inReset : (s.endCommand).inReset = s.inReset := rfl
@[simp] theorem State.endCommand_mem : (s.endCommand).mem = s.mem := rfl
@[simp] theorem State.endCommand_failing : (s.endCommand).failing = s.failing := rfl
@[simp] theorem State.endCommand_held : (s.endCommand).held = s.held := rfl
@[simp] theorem State.endCommand_freeIx : (s.endCommand).freeIx = s.freeIx := rfl
@[simp] theorem State.endCommand_reads : (s.endCommand).reads = s.reads := rfl
@[simp] theorem State.endCommand_rdata : (s.endCommand).rdata = s.rdata := rfl
@[simp] theorem State.endCommand_schedule : (s.endCommand).schedule = s.schedule := rfl

/-! ### endHash -/

@[simp] theorem State.endHash_params : (s.endHash).params = s.params := rfl
@[simp] theorem State.endHash_cmd : (s.endHash).cmd = s.cmd := rfl
@[simp] theorem State.endHash_busy : (s.endHash).busy = false := rfl
@[simp] theorem State.endHash_done : (s.endHash).done = true := rfl
@[simp] theorem State.endHash_err : (s.endHash).err = s.err := rfl
@[simp] theorem State.endHash_ovr : (s.endHash).ovr = s.ovr := rfl
@[simp] theorem State.endHash_ecode : (s.endHash).ecode = s.ecode := rfl
@[simp] theorem State.endHash_phase : (s.endHash).phase = .idle := rfl
@[simp] theorem State.endHash_hseq : (s.endHash).hseq = false := rfl
@[simp] theorem State.endHash_ecur : (s.endHash).ecur = s.ecur := rfl
@[simp] theorem State.endHash_ephase : (s.endHash).ephase = s.ephase := rfl
@[simp] theorem State.endHash_cur : (s.endHash).cur = s.cur := rfl
@[simp] theorem State.endHash_addr : (s.endHash).addr = s.addr := rfl
@[simp] theorem State.endHash_len : (s.endHash).len = s.len := rfl
@[simp] theorem State.endHash_seed : (s.endHash).seed = s.seed := rfl
@[simp] theorem State.endHash_a : (s.endHash).a = s.a := rfl
@[simp] theorem State.endHash_b : (s.endHash).b = s.b := rfl
@[simp] theorem State.endHash_c : (s.endHash).c = s.c := rfl
@[simp] theorem State.endHash_d : (s.endHash).d = s.d := rfl
@[simp] theorem State.endHash_p : (s.endHash).p = s.p := rfl
@[simp] theorem State.endHash_n : (s.endHash).n = s.n := rfl
@[simp] theorem State.endHash_w : (s.endHash).w = s.w := rfl
@[simp] theorem State.endHash_res : (s.endHash).res = s.res := rfl
@[simp] theorem State.endHash_eaddr : (s.endHash).eaddr = s.eaddr := rfl
@[simp] theorem State.endHash_alignbuf : (s.endHash).alignbuf = s.alignbuf := rfl
@[simp] theorem State.endHash_inReset : (s.endHash).inReset = s.inReset := rfl
@[simp] theorem State.endHash_mem : (s.endHash).mem = s.mem := rfl
@[simp] theorem State.endHash_failing : (s.endHash).failing = s.failing := rfl
@[simp] theorem State.endHash_held : (s.endHash).held = s.held := rfl
@[simp] theorem State.endHash_freeIx : (s.endHash).freeIx = s.freeIx := rfl
@[simp] theorem State.endHash_reads : (s.endHash).reads = s.reads := rfl
@[simp] theorem State.endHash_rdata : (s.endHash).rdata = s.rdata := rfl
@[simp] theorem State.endHash_schedule : (s.endHash).schedule = s.schedule := rfl

/-! ### setPhase -/

@[simp] theorem State.setPhase_params (ph : Phase) : (s.setPhase ph).params = s.params := rfl
@[simp] theorem State.setPhase_cmd (ph : Phase) : (s.setPhase ph).cmd = s.cmd := rfl
@[simp] theorem State.setPhase_busy (ph : Phase) : (s.setPhase ph).busy = s.busy := rfl
@[simp] theorem State.setPhase_done (ph : Phase) : (s.setPhase ph).done = s.done := rfl
@[simp] theorem State.setPhase_err (ph : Phase) : (s.setPhase ph).err = s.err := rfl
@[simp] theorem State.setPhase_ovr (ph : Phase) : (s.setPhase ph).ovr = s.ovr := rfl
@[simp] theorem State.setPhase_ecode (ph : Phase) : (s.setPhase ph).ecode = s.ecode := rfl
@[simp] theorem State.setPhase_phase (ph : Phase) : (s.setPhase ph).phase = ph := rfl
@[simp] theorem State.setPhase_hseq (ph : Phase) : (s.setPhase ph).hseq = s.hseq := rfl
@[simp] theorem State.setPhase_ecur (ph : Phase) : (s.setPhase ph).ecur = s.ecur := rfl
@[simp] theorem State.setPhase_ephase (ph : Phase) : (s.setPhase ph).ephase = s.ephase := rfl
@[simp] theorem State.setPhase_cur (ph : Phase) : (s.setPhase ph).cur = s.cur := rfl
@[simp] theorem State.setPhase_addr (ph : Phase) : (s.setPhase ph).addr = s.addr := rfl
@[simp] theorem State.setPhase_len (ph : Phase) : (s.setPhase ph).len = s.len := rfl
@[simp] theorem State.setPhase_seed (ph : Phase) : (s.setPhase ph).seed = s.seed := rfl
@[simp] theorem State.setPhase_a (ph : Phase) : (s.setPhase ph).a = s.a := rfl
@[simp] theorem State.setPhase_b (ph : Phase) : (s.setPhase ph).b = s.b := rfl
@[simp] theorem State.setPhase_c (ph : Phase) : (s.setPhase ph).c = s.c := rfl
@[simp] theorem State.setPhase_d (ph : Phase) : (s.setPhase ph).d = s.d := rfl
@[simp] theorem State.setPhase_p (ph : Phase) : (s.setPhase ph).p = s.p := rfl
@[simp] theorem State.setPhase_n (ph : Phase) : (s.setPhase ph).n = s.n := rfl
@[simp] theorem State.setPhase_w (ph : Phase) : (s.setPhase ph).w = s.w := rfl
@[simp] theorem State.setPhase_res (ph : Phase) : (s.setPhase ph).res = s.res := rfl
@[simp] theorem State.setPhase_eaddr (ph : Phase) : (s.setPhase ph).eaddr = s.eaddr := rfl
@[simp] theorem State.setPhase_alignbuf (ph : Phase) : (s.setPhase ph).alignbuf = s.alignbuf := rfl
@[simp] theorem State.setPhase_inReset (ph : Phase) : (s.setPhase ph).inReset = s.inReset := rfl
@[simp] theorem State.setPhase_mem (ph : Phase) : (s.setPhase ph).mem = s.mem := rfl
@[simp] theorem State.setPhase_failing (ph : Phase) : (s.setPhase ph).failing = s.failing := rfl
@[simp] theorem State.setPhase_held (ph : Phase) : (s.setPhase ph).held = s.held := rfl
@[simp] theorem State.setPhase_freeIx (ph : Phase) : (s.setPhase ph).freeIx = s.freeIx := rfl
@[simp] theorem State.setPhase_reads (ph : Phase) : (s.setPhase ph).reads = s.reads := rfl
@[simp] theorem State.setPhase_rdata (ph : Phase) : (s.setPhase ph).rdata = s.rdata := rfl
@[simp] theorem State.setPhase_schedule (ph : Phase) : (s.setPhase ph).schedule = s.schedule := rfl

/-! ### setOvr -/

@[simp] theorem State.setOvr_params : (s.setOvr).params = s.params := rfl
@[simp] theorem State.setOvr_cmd : (s.setOvr).cmd = s.cmd := rfl
@[simp] theorem State.setOvr_busy : (s.setOvr).busy = s.busy := rfl
@[simp] theorem State.setOvr_done : (s.setOvr).done = s.done := rfl
@[simp] theorem State.setOvr_err : (s.setOvr).err = s.err := rfl
@[simp] theorem State.setOvr_ovr : (s.setOvr).ovr = true := rfl
@[simp] theorem State.setOvr_ecode : (s.setOvr).ecode = s.ecode := rfl
@[simp] theorem State.setOvr_phase : (s.setOvr).phase = s.phase := rfl
@[simp] theorem State.setOvr_hseq : (s.setOvr).hseq = s.hseq := rfl
@[simp] theorem State.setOvr_ecur : (s.setOvr).ecur = s.ecur := rfl
@[simp] theorem State.setOvr_ephase : (s.setOvr).ephase = s.ephase := rfl
@[simp] theorem State.setOvr_cur : (s.setOvr).cur = s.cur := rfl
@[simp] theorem State.setOvr_addr : (s.setOvr).addr = s.addr := rfl
@[simp] theorem State.setOvr_len : (s.setOvr).len = s.len := rfl
@[simp] theorem State.setOvr_seed : (s.setOvr).seed = s.seed := rfl
@[simp] theorem State.setOvr_a : (s.setOvr).a = s.a := rfl
@[simp] theorem State.setOvr_b : (s.setOvr).b = s.b := rfl
@[simp] theorem State.setOvr_c : (s.setOvr).c = s.c := rfl
@[simp] theorem State.setOvr_d : (s.setOvr).d = s.d := rfl
@[simp] theorem State.setOvr_p : (s.setOvr).p = s.p := rfl
@[simp] theorem State.setOvr_n : (s.setOvr).n = s.n := rfl
@[simp] theorem State.setOvr_w : (s.setOvr).w = s.w := rfl
@[simp] theorem State.setOvr_res : (s.setOvr).res = s.res := rfl
@[simp] theorem State.setOvr_eaddr : (s.setOvr).eaddr = s.eaddr := rfl
@[simp] theorem State.setOvr_alignbuf : (s.setOvr).alignbuf = s.alignbuf := rfl
@[simp] theorem State.setOvr_inReset : (s.setOvr).inReset = s.inReset := rfl
@[simp] theorem State.setOvr_mem : (s.setOvr).mem = s.mem := rfl
@[simp] theorem State.setOvr_failing : (s.setOvr).failing = s.failing := rfl
@[simp] theorem State.setOvr_held : (s.setOvr).held = s.held := rfl
@[simp] theorem State.setOvr_freeIx : (s.setOvr).freeIx = s.freeIx := rfl
@[simp] theorem State.setOvr_reads : (s.setOvr).reads = s.reads := rfl
@[simp] theorem State.setOvr_rdata : (s.setOvr).rdata = s.rdata := rfl
@[simp] theorem State.setOvr_schedule : (s.setOvr).schedule = s.schedule := rfl

/-! ### clearDone -/

@[simp] theorem State.clearDone_params : (s.clearDone).params = s.params := rfl
@[simp] theorem State.clearDone_cmd : (s.clearDone).cmd = s.cmd := rfl
@[simp] theorem State.clearDone_busy : (s.clearDone).busy = s.busy := rfl
@[simp] theorem State.clearDone_done : (s.clearDone).done = false := rfl
@[simp] theorem State.clearDone_err : (s.clearDone).err = s.err := rfl
@[simp] theorem State.clearDone_ovr : (s.clearDone).ovr = s.ovr := rfl
@[simp] theorem State.clearDone_ecode : (s.clearDone).ecode = s.ecode := rfl
@[simp] theorem State.clearDone_phase : (s.clearDone).phase = s.phase := rfl
@[simp] theorem State.clearDone_hseq : (s.clearDone).hseq = s.hseq := rfl
@[simp] theorem State.clearDone_ecur : (s.clearDone).ecur = s.ecur := rfl
@[simp] theorem State.clearDone_ephase : (s.clearDone).ephase = s.ephase := rfl
@[simp] theorem State.clearDone_cur : (s.clearDone).cur = s.cur := rfl
@[simp] theorem State.clearDone_addr : (s.clearDone).addr = s.addr := rfl
@[simp] theorem State.clearDone_len : (s.clearDone).len = s.len := rfl
@[simp] theorem State.clearDone_seed : (s.clearDone).seed = s.seed := rfl
@[simp] theorem State.clearDone_a : (s.clearDone).a = s.a := rfl
@[simp] theorem State.clearDone_b : (s.clearDone).b = s.b := rfl
@[simp] theorem State.clearDone_c : (s.clearDone).c = s.c := rfl
@[simp] theorem State.clearDone_d : (s.clearDone).d = s.d := rfl
@[simp] theorem State.clearDone_p : (s.clearDone).p = s.p := rfl
@[simp] theorem State.clearDone_n : (s.clearDone).n = s.n := rfl
@[simp] theorem State.clearDone_w : (s.clearDone).w = s.w := rfl
@[simp] theorem State.clearDone_res : (s.clearDone).res = s.res := rfl
@[simp] theorem State.clearDone_eaddr : (s.clearDone).eaddr = s.eaddr := rfl
@[simp] theorem State.clearDone_alignbuf : (s.clearDone).alignbuf = s.alignbuf := rfl
@[simp] theorem State.clearDone_inReset : (s.clearDone).inReset = s.inReset := rfl
@[simp] theorem State.clearDone_mem : (s.clearDone).mem = s.mem := rfl
@[simp] theorem State.clearDone_failing : (s.clearDone).failing = s.failing := rfl
@[simp] theorem State.clearDone_held : (s.clearDone).held = s.held := rfl
@[simp] theorem State.clearDone_freeIx : (s.clearDone).freeIx = s.freeIx := rfl
@[simp] theorem State.clearDone_reads : (s.clearDone).reads = s.reads := rfl
@[simp] theorem State.clearDone_rdata : (s.clearDone).rdata = s.rdata := rfl
@[simp] theorem State.clearDone_schedule : (s.clearDone).schedule = s.schedule := rfl

/-! ### clearErr -/

@[simp] theorem State.clearErr_params : (s.clearErr).params = s.params := rfl
@[simp] theorem State.clearErr_cmd : (s.clearErr).cmd = s.cmd := rfl
@[simp] theorem State.clearErr_busy : (s.clearErr).busy = s.busy := rfl
@[simp] theorem State.clearErr_done : (s.clearErr).done = s.done := rfl
@[simp] theorem State.clearErr_err : (s.clearErr).err = false := rfl
@[simp] theorem State.clearErr_ovr : (s.clearErr).ovr = s.ovr := rfl
@[simp] theorem State.clearErr_ecode : (s.clearErr).ecode = .none := rfl
@[simp] theorem State.clearErr_phase : (s.clearErr).phase = s.phase := rfl
@[simp] theorem State.clearErr_hseq : (s.clearErr).hseq = s.hseq := rfl
@[simp] theorem State.clearErr_ecur : (s.clearErr).ecur = s.ecur := rfl
@[simp] theorem State.clearErr_ephase : (s.clearErr).ephase = .idle := rfl
@[simp] theorem State.clearErr_cur : (s.clearErr).cur = s.cur := rfl
@[simp] theorem State.clearErr_addr : (s.clearErr).addr = s.addr := rfl
@[simp] theorem State.clearErr_len : (s.clearErr).len = s.len := rfl
@[simp] theorem State.clearErr_seed : (s.clearErr).seed = s.seed := rfl
@[simp] theorem State.clearErr_a : (s.clearErr).a = s.a := rfl
@[simp] theorem State.clearErr_b : (s.clearErr).b = s.b := rfl
@[simp] theorem State.clearErr_c : (s.clearErr).c = s.c := rfl
@[simp] theorem State.clearErr_d : (s.clearErr).d = s.d := rfl
@[simp] theorem State.clearErr_p : (s.clearErr).p = s.p := rfl
@[simp] theorem State.clearErr_n : (s.clearErr).n = s.n := rfl
@[simp] theorem State.clearErr_w : (s.clearErr).w = s.w := rfl
@[simp] theorem State.clearErr_res : (s.clearErr).res = s.res := rfl
@[simp] theorem State.clearErr_eaddr : (s.clearErr).eaddr = s.eaddr := rfl
@[simp] theorem State.clearErr_alignbuf : (s.clearErr).alignbuf = s.alignbuf := rfl
@[simp] theorem State.clearErr_inReset : (s.clearErr).inReset = s.inReset := rfl
@[simp] theorem State.clearErr_mem : (s.clearErr).mem = s.mem := rfl
@[simp] theorem State.clearErr_failing : (s.clearErr).failing = s.failing := rfl
@[simp] theorem State.clearErr_held : (s.clearErr).held = s.held := rfl
@[simp] theorem State.clearErr_freeIx : (s.clearErr).freeIx = s.freeIx := rfl
@[simp] theorem State.clearErr_reads : (s.clearErr).reads = s.reads := rfl
@[simp] theorem State.clearErr_rdata : (s.clearErr).rdata = s.rdata := rfl
@[simp] theorem State.clearErr_schedule : (s.clearErr).schedule = s.schedule := rfl

/-! ### clearOvr -/

@[simp] theorem State.clearOvr_params : (s.clearOvr).params = s.params := rfl
@[simp] theorem State.clearOvr_cmd : (s.clearOvr).cmd = s.cmd := rfl
@[simp] theorem State.clearOvr_busy : (s.clearOvr).busy = s.busy := rfl
@[simp] theorem State.clearOvr_done : (s.clearOvr).done = s.done := rfl
@[simp] theorem State.clearOvr_err : (s.clearOvr).err = s.err := rfl
@[simp] theorem State.clearOvr_ovr : (s.clearOvr).ovr = false := rfl
@[simp] theorem State.clearOvr_ecode : (s.clearOvr).ecode = s.ecode := rfl
@[simp] theorem State.clearOvr_phase : (s.clearOvr).phase = s.phase := rfl
@[simp] theorem State.clearOvr_hseq : (s.clearOvr).hseq = s.hseq := rfl
@[simp] theorem State.clearOvr_ecur : (s.clearOvr).ecur = s.ecur := rfl
@[simp] theorem State.clearOvr_ephase : (s.clearOvr).ephase = s.ephase := rfl
@[simp] theorem State.clearOvr_cur : (s.clearOvr).cur = s.cur := rfl
@[simp] theorem State.clearOvr_addr : (s.clearOvr).addr = s.addr := rfl
@[simp] theorem State.clearOvr_len : (s.clearOvr).len = s.len := rfl
@[simp] theorem State.clearOvr_seed : (s.clearOvr).seed = s.seed := rfl
@[simp] theorem State.clearOvr_a : (s.clearOvr).a = s.a := rfl
@[simp] theorem State.clearOvr_b : (s.clearOvr).b = s.b := rfl
@[simp] theorem State.clearOvr_c : (s.clearOvr).c = s.c := rfl
@[simp] theorem State.clearOvr_d : (s.clearOvr).d = s.d := rfl
@[simp] theorem State.clearOvr_p : (s.clearOvr).p = s.p := rfl
@[simp] theorem State.clearOvr_n : (s.clearOvr).n = s.n := rfl
@[simp] theorem State.clearOvr_w : (s.clearOvr).w = s.w := rfl
@[simp] theorem State.clearOvr_res : (s.clearOvr).res = s.res := rfl
@[simp] theorem State.clearOvr_eaddr : (s.clearOvr).eaddr = s.eaddr := rfl
@[simp] theorem State.clearOvr_alignbuf : (s.clearOvr).alignbuf = s.alignbuf := rfl
@[simp] theorem State.clearOvr_inReset : (s.clearOvr).inReset = s.inReset := rfl
@[simp] theorem State.clearOvr_mem : (s.clearOvr).mem = s.mem := rfl
@[simp] theorem State.clearOvr_failing : (s.clearOvr).failing = s.failing := rfl
@[simp] theorem State.clearOvr_held : (s.clearOvr).held = s.held := rfl
@[simp] theorem State.clearOvr_freeIx : (s.clearOvr).freeIx = s.freeIx := rfl
@[simp] theorem State.clearOvr_reads : (s.clearOvr).reads = s.reads := rfl
@[simp] theorem State.clearOvr_rdata : (s.clearOvr).rdata = s.rdata := rfl
@[simp] theorem State.clearOvr_schedule : (s.clearOvr).schedule = s.schedule := rfl

/-! ### noteCommand -/

@[simp] theorem State.noteCommand_params (v : Dword) : (s.noteCommand v).params = s.params := rfl
@[simp] theorem State.noteCommand_cmd (v : Dword) : (s.noteCommand v).cmd = v.extractLsb' 0 16 := rfl
@[simp] theorem State.noteCommand_busy (v : Dword) : (s.noteCommand v).busy = s.busy := rfl
@[simp] theorem State.noteCommand_done (v : Dword) : (s.noteCommand v).done = false := rfl
@[simp] theorem State.noteCommand_err (v : Dword) : (s.noteCommand v).err = false := rfl
@[simp] theorem State.noteCommand_ovr (v : Dword) : (s.noteCommand v).ovr = s.ovr := rfl
@[simp] theorem State.noteCommand_ecode (v : Dword) : (s.noteCommand v).ecode = .none := rfl
@[simp] theorem State.noteCommand_phase (v : Dword) : (s.noteCommand v).phase = s.phase := rfl
@[simp] theorem State.noteCommand_hseq (v : Dword) : (s.noteCommand v).hseq = s.hseq := rfl
@[simp] theorem State.noteCommand_ecur (v : Dword) : (s.noteCommand v).ecur = s.ecur := rfl
@[simp] theorem State.noteCommand_ephase (v : Dword) : (s.noteCommand v).ephase = .idle := rfl
@[simp] theorem State.noteCommand_cur (v : Dword) : (s.noteCommand v).cur = s.cur := rfl
@[simp] theorem State.noteCommand_addr (v : Dword) : (s.noteCommand v).addr = s.addr := rfl
@[simp] theorem State.noteCommand_len (v : Dword) : (s.noteCommand v).len = s.len := rfl
@[simp] theorem State.noteCommand_seed (v : Dword) : (s.noteCommand v).seed = s.seed := rfl
@[simp] theorem State.noteCommand_a (v : Dword) : (s.noteCommand v).a = s.a := rfl
@[simp] theorem State.noteCommand_b (v : Dword) : (s.noteCommand v).b = s.b := rfl
@[simp] theorem State.noteCommand_c (v : Dword) : (s.noteCommand v).c = s.c := rfl
@[simp] theorem State.noteCommand_d (v : Dword) : (s.noteCommand v).d = s.d := rfl
@[simp] theorem State.noteCommand_p (v : Dword) : (s.noteCommand v).p = s.p := rfl
@[simp] theorem State.noteCommand_n (v : Dword) : (s.noteCommand v).n = s.n := rfl
@[simp] theorem State.noteCommand_w (v : Dword) : (s.noteCommand v).w = s.w := rfl
@[simp] theorem State.noteCommand_res (v : Dword) : (s.noteCommand v).res = s.res := rfl
@[simp] theorem State.noteCommand_eaddr (v : Dword) : (s.noteCommand v).eaddr = s.eaddr := rfl
@[simp] theorem State.noteCommand_alignbuf (v : Dword) : (s.noteCommand v).alignbuf = s.alignbuf := rfl
@[simp] theorem State.noteCommand_inReset (v : Dword) : (s.noteCommand v).inReset = s.inReset := rfl
@[simp] theorem State.noteCommand_mem (v : Dword) : (s.noteCommand v).mem = s.mem := rfl
@[simp] theorem State.noteCommand_failing (v : Dword) : (s.noteCommand v).failing = s.failing := rfl
@[simp] theorem State.noteCommand_held (v : Dword) : (s.noteCommand v).held = s.held := rfl
@[simp] theorem State.noteCommand_freeIx (v : Dword) : (s.noteCommand v).freeIx = s.freeIx := rfl
@[simp] theorem State.noteCommand_reads (v : Dword) : (s.noteCommand v).reads = s.reads := rfl
@[simp] theorem State.noteCommand_rdata (v : Dword) : (s.noteCommand v).rdata = s.rdata := rfl
@[simp] theorem State.noteCommand_schedule (v : Dword) : (s.noteCommand v).schedule = s.schedule := rfl

/-! ### startCommand -/

@[simp] theorem State.startCommand_params (v : Dword) (i : Instr) : (s.startCommand v i).params = s.params := rfl
@[simp] theorem State.startCommand_cmd (v : Dword) (i : Instr) : (s.startCommand v i).cmd = s.cmd := rfl
@[simp] theorem State.startCommand_busy (v : Dword) (i : Instr) : (s.startCommand v i).busy = true := rfl
@[simp] theorem State.startCommand_done (v : Dword) (i : Instr) : (s.startCommand v i).done = s.done := rfl
@[simp] theorem State.startCommand_err (v : Dword) (i : Instr) : (s.startCommand v i).err = s.err := rfl
@[simp] theorem State.startCommand_ovr (v : Dword) (i : Instr) : (s.startCommand v i).ovr = s.ovr := rfl
@[simp] theorem State.startCommand_ecode (v : Dword) (i : Instr) : (s.startCommand v i).ecode = s.ecode := rfl
@[simp] theorem State.startCommand_phase (v : Dword) (i : Instr) : (s.startCommand v i).phase = startPhase i := rfl
@[simp] theorem State.startCommand_hseq (v : Dword) (i : Instr) : (s.startCommand v i).hseq = isHash i := rfl
@[simp] theorem State.startCommand_ecur (v : Dword) (i : Instr) : (s.startCommand v i).ecur = eField v := rfl
@[simp] theorem State.startCommand_ephase (v : Dword) (i : Instr) : (s.startCommand v i).ephase = s.ephase := rfl
@[simp] theorem State.startCommand_cur (v : Dword) (i : Instr) : (s.startCommand v i).cur = ⟨opField v, eField v, kField v, xField v⟩ := rfl
@[simp] theorem State.startCommand_addr (v : Dword) (i : Instr) : (s.startCommand v i).addr = s.addr := rfl
@[simp] theorem State.startCommand_len (v : Dword) (i : Instr) : (s.startCommand v i).len = s.len := rfl
@[simp] theorem State.startCommand_seed (v : Dword) (i : Instr) : (s.startCommand v i).seed = s.seed := rfl
@[simp] theorem State.startCommand_a (v : Dword) (i : Instr) : (s.startCommand v i).a = s.a := rfl
@[simp] theorem State.startCommand_b (v : Dword) (i : Instr) : (s.startCommand v i).b = s.b := rfl
@[simp] theorem State.startCommand_c (v : Dword) (i : Instr) : (s.startCommand v i).c = s.c := rfl
@[simp] theorem State.startCommand_d (v : Dword) (i : Instr) : (s.startCommand v i).d = s.d := rfl
@[simp] theorem State.startCommand_p (v : Dword) (i : Instr) : (s.startCommand v i).p = s.p := rfl
@[simp] theorem State.startCommand_n (v : Dword) (i : Instr) : (s.startCommand v i).n = s.n := rfl
@[simp] theorem State.startCommand_w (v : Dword) (i : Instr) : (s.startCommand v i).w = s.w := rfl
@[simp] theorem State.startCommand_res (v : Dword) (i : Instr) : (s.startCommand v i).res = s.res := rfl
@[simp] theorem State.startCommand_eaddr (v : Dword) (i : Instr) : (s.startCommand v i).eaddr = s.eaddr := rfl
@[simp] theorem State.startCommand_alignbuf (v : Dword) (i : Instr) : (s.startCommand v i).alignbuf = s.alignbuf := rfl
@[simp] theorem State.startCommand_inReset (v : Dword) (i : Instr) : (s.startCommand v i).inReset = s.inReset := rfl
@[simp] theorem State.startCommand_mem (v : Dword) (i : Instr) : (s.startCommand v i).mem = s.mem := rfl
@[simp] theorem State.startCommand_failing (v : Dword) (i : Instr) : (s.startCommand v i).failing = s.failing := rfl
@[simp] theorem State.startCommand_held (v : Dword) (i : Instr) : (s.startCommand v i).held = [] := rfl
@[simp] theorem State.startCommand_freeIx (v : Dword) (i : Instr) : (s.startCommand v i).freeIx = s.freeIx := rfl
@[simp] theorem State.startCommand_reads (v : Dword) (i : Instr) : (s.startCommand v i).reads = s.reads := rfl
@[simp] theorem State.startCommand_rdata (v : Dword) (i : Instr) : (s.startCommand v i).rdata = s.rdata := rfl
@[simp] theorem State.startCommand_schedule (v : Dword) (i : Instr) : (s.startCommand v i).schedule = s.schedule := rfl

end Sys2Proof.Machine
end

