-- ==== Sys2Proof/Laws/Reads.lean ====
section
/-!
SUPPORT. What issuing requests can do, said once: it succeeds exactly when the memory answers every request, and it stops at
the first that fails. What the memory delivers in a range, every access pattern over the range delivers (20_memory.md R57,
R58).
-/

namespace Sys2Proof.Machine

/-! ## Ranges of requests -/

@[simp] theorem byteRequests_length (x n : Nat) : (byteRequests x n).length = n := by
  induction n generalizing x with
  | zero => rfl
  | succ n ih => simp [byteRequests, ih]

theorem mem_byteRequests (x n : Nat) (q : Request) :
    q ∈ byteRequests x n ↔ q.size = 1 ∧ x ≤ q.addr ∧ q.addr < x + n := by
  induction n generalizing x with
  | zero => simp [byteRequests]
  | succ n ih =>
    obtain ⟨a, k⟩ := q
    simp only [byteRequests, List.mem_cons, ih, Request.mk.injEq]
    omega

/-- Every request for a word lies in the word's four bytes, and has 4 bytes only where R57 allows it. -/
theorem mem_wordRequests (p : Params) (x : Nat) (q : Request) (h : q ∈ wordRequests p x) :
    x ≤ q.addr ∧ q.addr + q.size ≤ x + 4 ∧ (q.size = 1 ∨ q.size = 4 ∧ (q.addr % 4 = 0 ∨ p.unalignedOk = true)) := by
  unfold wordRequests at h
  split at h
  · have := (mem_byteRequests x 4 q).1 h; omega
  · next hs =>
    simp only [List.mem_singleton] at h
    subst h
    simp only [splitsWord, Bool.and_eq_true, Bool.not_eq_true', not_and, Bool.not_eq_false] at hs
    refine ⟨le_refl _, le_refl _, .inr ⟨rfl, ?_⟩⟩
    by_cases hx : x % 4 = 0
    · exact .inl hx
    · exact .inr (hs (by simpa using hx))

theorem mem_tailRequests (p : Params) (x n : Nat) (q : Request) (h : q ∈ tailRequests p x n) :
    x ≤ q.addr ∧ q.addr + q.size ≤ x + n ∧ (q.size = 1 ∨ q.size = 4 ∧ (q.addr % 4 = 0 ∨ p.unalignedOk = true)) := by
  unfold tailRequests at h
  split at h
  · next h4 => subst h4; exact mem_wordRequests p x q h
  · have := (mem_byteRequests x n q).1 h; omega

theorem mem_blockRequests (p : Params) (x : Nat) (q : Request) (h : q ∈ blockRequests p x) :
    x ≤ q.addr ∧ q.addr + q.size ≤ x + 16 ∧ (q.size = 1 ∨ q.size = 4 ∧ (q.addr % 4 = 0 ∨ p.unalignedOk = true)) := by
  simp only [blockRequests, List.mem_append] at h
  rcases h with ((h | h) | h) | h
  all_goals
    obtain ⟨h1, h2, h3⟩ := mem_wordRequests p _ q h
    exact ⟨by omega, by omega, h3⟩

theorem askedBytes_append (xs ys : List Request) : askedBytes (xs ++ ys) = askedBytes xs ++ askedBytes ys := by
  simp [askedBytes]

theorem askedBytes_byteRequests (x n : Nat) : askedBytes (byteRequests x n) = List.range' x n := by
  induction n generalizing x with
  | zero => rfl
  | succ n ih =>
    have : askedBytes (byteRequests x (n + 1)) = [x] ++ askedBytes (byteRequests (x + 1) n) := rfl
    rw [this, ih, List.range'_succ]; rfl

theorem askedBytes_wordRequests (p : Params) (x : Nat) : askedBytes (wordRequests p x) = List.range' x 4 := by
  unfold wordRequests
  split
  · exact askedBytes_byteRequests x 4
  · simp [askedBytes]

theorem askedBytes_tailRequests (p : Params) (x n : Nat) : askedBytes (tailRequests p x n) = List.range' x n := by
  unfold tailRequests
  split
  · next h => subst h; exact askedBytes_wordRequests p x
  · exact askedBytes_byteRequests x n

theorem askedBytes_blockRequests (p : Params) (x : Nat) : askedBytes (blockRequests p x) = List.range' x 16 := by
  simp only [blockRequests, askedBytes_append, askedBytes_wordRequests]
  rfl

/-! ## Issuing requests -/

/-- Issuing in two parts: the second part is issued when the first succeeds. -/
theorem issue_append (s : State) (xs ys : List Request) :
    s.issue (xs ++ ys) = match s.issue xs with
      | .ok bs qs => match s.issue ys with
        | .ok bs' qs' => .ok (bs ++ bs') (qs ++ qs')
        | .bus a qs' => .bus a (qs ++ qs')
      | .bus a qs => .bus a qs := by
  induction xs with
  | nil => simp only [List.nil_append, State.issue]; cases s.issue ys <;> simp
  | cons q xs ih =>
    simp only [List.cons_append, State.issue, ih]
    cases s.memRead q with
    | none => rfl
    | some bs =>
      cases s.issue xs with
      | bus a qs => rfl
      | ok bs1 qs1 => cases s.issue ys <;> simp

/-- Success issues every request. -/
theorem issue_ok_issued (s : State) (qs : List Request) (bs : List Byte) (issued : List Request)
    (h : s.issue qs = .ok bs issued) : issued = qs := by
  induction qs generalizing bs issued with
  | nil => simp [State.issue] at h; simp [h]
  | cons q qs ih =>
    simp only [State.issue] at h
    split at h
    · cases h
    · split at h
      · next h' => cases h; rw [ih _ _ h']
      · cases h

/-- Failure: the requests before the failing one were answered, the failing one was not, and none after it was issued. -/
theorem issue_bus_split (s : State) (qs : List Request) (a : Nat) (issued : List Request)
    (h : s.issue qs = .bus a issued) :
    ∃ before q after, qs = before ++ q :: after ∧ issued = before ++ [q] ∧ a = q.addr ∧ s.memRead q = none ∧
      ∀ r ∈ before, s.memRead r ≠ none := by
  induction qs generalizing a issued with
  | nil => simp [State.issue] at h
  | cons q qs ih =>
    simp only [State.issue] at h
    split at h
    · next hq => cases h; exact ⟨[], q, qs, by simp, by simp, rfl, hq, by simp⟩
    · next bs hq =>
      split at h
      · cases h
      · next h' =>
        cases h
        obtain ⟨before, r, after, rfl, rfl, ha, hr, hb⟩ := ih _ _ h'
        refine ⟨q :: before, r, after, by simp, by simp, ha, hr, ?_⟩
        intro t ht
        rcases List.mem_cons.1 ht with rfl | ht
        · simp [hq]
        · exact hb t ht

/-- The converse: requests answered before a failing one give that failure. -/
theorem issue_of_failing (s : State) (before after : List Request) (q : Request) (hq : s.memRead q = none)
    (hb : ∀ r ∈ before, s.memRead r ≠ none) : s.issue (before ++ q :: after) = .bus q.addr (before ++ [q]) := by
  induction before with
  | nil => simp [State.issue, hq]
  | cons r before ih =>
    obtain ⟨bs, hr⟩ := Option.ne_none_iff_exists'.1 (hb r (by simp))
    simp only [List.cons_append, State.issue, hr, ih fun t ht => hb t (by simp [ht])]

/-- A delivered byte is read as it stands in memory. -/
theorem byteAt_of_delivers (s : State) (a : Nat) (v : Byte) (h : Memory.read s.mem a = some v)
    (hh : ∀ y ∈ s.held, y.1 ≠ a) : s.byteAt a = some v := by
  have : heldAt s.held a = [] := by
    simp only [heldAt, List.filterMap_eq_nil_iff]
    intro y hy
    simp [hh y hy]
  simp [State.byteAt, h, this]

theorem bytesAt_of_delivers (s : State) (x : Nat) (bs : List Byte) (h : Memory.holds s.mem x bs)
    (hh : ∀ y ∈ s.held, ¬(x ≤ y.1 ∧ y.1 < x + bs.length)) : s.bytesAt x bs.length = some bs := by
  induction bs generalizing x with
  | nil => rfl
  | cons v bs ih =>
    obtain ⟨h0, h1⟩ := Memory.holds_tail _ _ _ _ h
    have hv : s.byteAt x = some v := by
      refine byteAt_of_delivers s x v h0 fun y hy he => hh y hy ?_
      simp only [List.length_cons]; omega
    have hr := ih (x + 1) h1 fun y hy hr => hh y hy (by simp only [List.length_cons]; omega)
    simp [State.bytesAt, hv, hr]

theorem memRead_of_delivers (s : State) (x k : Nat) (bs : List Byte) (h : s.delivers x bs) (hk : 0 < k)
    (hl : bs.length = k) : s.memRead ⟨x, k⟩ = some bs := by
  obtain ⟨h1, h2, h3⟩ := h
  subst hl
  have : (⟨x, bs.length⟩ : Request) ∉ s.failing := fun hm => h2 _ hm ⟨le_refl _, by simpa using hk⟩
  simp [State.memRead, this, bytesAt_of_delivers s x bs h1 h3]

theorem delivers_drop (s : State) (x k : Nat) (bs : List Byte) (h : s.delivers x bs) :
    s.delivers (x + k) (bs.drop k) := by
  obtain ⟨h1, h2, h3⟩ := h
  refine ⟨Memory.holds_drop _ _ _ _ h1, fun q hq hr => h2 q hq ?_, fun y hy hr => h3 y hy ?_⟩
  · simp only [List.length_drop] at hr; omega
  · simp only [List.length_drop] at hr; omega

theorem delivers_take (s : State) (x k : Nat) (bs : List Byte) (h : s.delivers x bs) : s.delivers x (bs.take k) := by
  obtain ⟨h1, h2, h3⟩ := h
  refine ⟨Memory.holds_take _ _ _ _ h1, fun q hq hr => h2 q hq ?_, fun y hy hr => h3 y hy ?_⟩
  · simp only [List.length_take] at hr; omega
  · simp only [List.length_take] at hr; omega

/-- Single-byte reads of a delivered range give its bytes. -/
theorem issue_byteRequests (s : State) (x : Nat) (bs : List Byte) (h : s.delivers x bs) :
    s.issue (byteRequests x bs.length) = .ok bs (byteRequests x bs.length) := by
  induction bs generalizing x with
  | nil => rfl
  | cons v bs ih =>
    have h0 : s.memRead ⟨x, 1⟩ = some [v] := memRead_of_delivers s x 1 [v] (by simpa using delivers_take s x 1 _ h) (by omega) rfl
    have h1 := ih (x + 1) (by simpa using delivers_drop s x 1 _ h)
    simp [byteRequests, State.issue, h0, h1]

/-- Either access pattern gives a delivered word's four bytes (20_memory.md R58). -/
theorem issue_wordRequests (s : State) (p : Params) (x : Nat) (bs : List Byte) (h : s.delivers x bs) (hl : bs.length = 4) :
    s.issue (wordRequests p x) = .ok bs (wordRequests p x) := by
  unfold wordRequests
  split
  · simpa [hl] using issue_byteRequests s x bs h
  · simp [State.issue, memRead_of_delivers s x 4 bs h (by omega) hl]

/-- A delivered tail of 1 to 4 bytes. -/
theorem issue_tailRequests (s : State) (p : Params) (x : Nat) (bs : List Byte) (h : s.delivers x bs) :
    s.issue (tailRequests p x bs.length) = .ok bs (tailRequests p x bs.length) := by
  unfold tailRequests
  split
  · next h4 => exact issue_wordRequests s p x bs h h4
  · exact issue_byteRequests s x bs h

/-- A delivered block. -/
theorem issue_blockRequests (s : State) (p : Params) (x : Nat) (bs : List Byte) (h : s.delivers x bs)
    (hl : bs.length = 16) : s.issue (blockRequests p x) = .ok bs (blockRequests p x) := by
  have w (k : Nat) (hk : k + 4 ≤ 16) : s.issue (wordRequests p (x + k)) =
      .ok ((bs.drop k).take 4) (wordRequests p (x + k)) :=
    issue_wordRequests s p (x + k) _ (delivers_take _ _ 4 _ (delivers_drop s x k bs h)) (by simp; omega)
  have hb : bs = bs.take 4 ++ ((bs.drop 4).take 4 ++ ((bs.drop 8).take 4 ++ (bs.drop 12).take 4)) := by
    have h12 : (bs.drop 12).take 4 = bs.drop 12 := List.take_of_length_le (by simp; omega)
    rw [h12]
    conv_lhs => rw [← List.take_append_drop 4 bs, ← List.take_append_drop 4 (bs.drop 4),
      ← List.take_append_drop 4 ((bs.drop 4).drop 4)]
    simp [List.drop_drop]
  have w0 := w 0 (by omega)
  simp only [Nat.add_zero, List.drop_zero] at w0
  simp only [blockRequests, issue_append, w0, w 4 (by omega), w 8 (by omega), w 12 (by omega)]
  congr 1
  conv_rhs => rw [hb]
  simp

end Sys2Proof.Machine
end

