-- ==== Sys2Proof/Laws/Ops.lean ====
section
/-!
SUPPORT. What one engine step can do, said once for every command: `exec` of a micro-operation command is RANGE when its
bound check fails, BUS when a request fails, and else its `effect` on the bytes read; a step of HASH is the same for the
micro-operation its phase names. The inversion lemmas `exec_cases` and `hash_cases` are what later proofs cite.
-/

namespace Sys2Proof

/-! ## Small lemmas of the pure operations -/

theorem Params.space_pos (p : Params) : 0 < p.space := by simp [Params.space]

theorem Params.space_le (p : Params) : p.space ≤ 2 ^ 64 := by
  unfold Params.space; cases p.addrW <;> simp [AddrWidth.bits]

theorem Params.space_dvd (p : Params) : p.space ∣ 2 ^ 64 := by
  unfold Params.space
  cases p.addrW with
  | w32 => exact Nat.pow_dvd_pow 2 (by simp [AddrWidth.bits])
  | w64 => exact Nat.pow_dvd_pow 2 (by simp [AddrWidth.bits])

end Sys2Proof

namespace Sys2Proof.Machine

@[simp] theorem truncAddr_toNat (p : Params) (v : Dword) : (truncAddr p v).toNat = v.toNat % p.space := by
  have h := Nat.mod_lt v.toNat p.space_pos
  have := p.space_le
  simp only [truncAddr, BitVec.toNat_ofNat]
  exact Nat.mod_eq_of_lt (by omega)

theorem truncAddr_lt (p : Params) (v : Dword) : (truncAddr p v).toNat < p.space := by
  simpa using Nat.mod_lt _ p.space_pos

theorem truncAddr_of_lt (p : Params) (v : Dword) (h : v.toNat < p.space) : truncAddr p v = v := by
  apply BitVec.eq_of_toNat_eq
  simpa using Nat.mod_eq_of_lt h

theorem primeAt_of_lt (p : Params) (k : BitVec 3) (h : k.toNat < 7) : primeAt p k = some p.q[k.toNat] := by
  simp [primeAt, h]

theorem Instr.wf_mixup (k : BitVec 3) (h : (k != 7) = true) : k.toNat < 7 := by
  have h7 : k.toNat ≠ 7 := fun he => by
    have : k = 7 := BitVec.eq_of_toNat_eq (by simpa using he)
    simp [this] at h
  have := k.isLt
  omega

/-! ## The effect of a micro-operation -/

/-- The address that RANGE records (60_exceptions.md R181). -/
def rangeAddr (i : Instr) (s : State) : Nat := if i = .init then s.addr.toNat else s.p.toNat

/-- The writes of a tail step whose word is `v`, or none when the bucket's low end is not reached. -/
def tailEffect (lo : Nat) (mix : Word → State → State) (e : ByteOrder) (bs : List Byte) (s : State) : State :=
  if s.n.toNat < lo then s
  else
    (mix (assembleWord e bs)
      (s.noteReads (splitsWord s.params s.p.toNat) bs (wordRequests s.params s.p.toNat))).advance 4

/-- The writes of TAIL.Q1 with the bytes `bs`. -/
def tailQ1Effect (e : ByteOrder) (bs : List Byte) (s : State) : State :=
  if s.n.toNat < 1 then s
  else
    ((s.noteReads (s.n.toNat == 4 && splitsWord s.params s.p.toNat) bs
      (tailRequests s.params s.p.toNat s.n.toNat)).mixBA (tailWord s.params e s.n.toNat bs) s.params.q[1]).advance
        s.n.toNat

/-- The writes of BULK.BLOCK with the bytes `bs`. -/
def blockEffect (e : ByteOrder) (bs : List Byte) (s : State) : State :=
  ((s.noteReads (splitsWord s.params s.p.toNat) bs (blockRequests s.params s.p.toNat)).setAcc
    (blockOfBytes s.params e bs s.acc)).advance 16

/-- The writes of FETCH32 with the bytes `bs`. -/
def fetchEffect (e : ByteOrder) (bs : List Byte) (s : State) : State :=
  (s.noteReads (splitsWord s.params s.p.toNat) bs (wordRequests s.params s.p.toNat)).setW (assembleWord e bs)

/-- The writes of TAIL32 with the bytes `bs`. -/
def tail32Effect (e : ByteOrder) (bs : List Byte) (s : State) : State :=
  (s.noteReads (s.n.toNat == 4 && splitsWord s.params s.p.toNat) bs
    (tailRequests s.params s.p.toNat s.n.toNat)).setW (tailWord s.params e s.n.toNat bs)

/-- The writes of a micro-operation command whose reads delivered `bs`. -/
def effect (i : Instr) (bs : List Byte) (s : State) : State :=
  match i with
  | .hashLe | .hashBe => s
  | .init => (s.setAB (initA s.params s.len s.seed) (initB s.len s.seed)).setPN s.addr s.len
  | .bulkSetup => s.setAcc (setupAcc s.a s.b)
  | .bulkBlockLe => blockEffect .little bs s
  | .bulkBlockBe => blockEffect .big bs s
  | .bulkFold => s.setAcc (foldAcc s.params s.acc)
  | .tailQ4Le => tailEffect 13 (fun v t => t.mixAB v s.params.q[4]) .little bs s
  | .tailQ4Be => tailEffect 13 (fun v t => t.mixAB v s.params.q[4]) .big bs s
  | .tailQ3Le => tailEffect 9 (fun v t => t.mixBA v s.params.q[3]) .little bs s
  | .tailQ3Be => tailEffect 9 (fun v t => t.mixBA v s.params.q[3]) .big bs s
  | .tailQ2Le => tailEffect 5 (fun v t => t.mixAB v s.params.q[2]) .little bs s
  | .tailQ2Be => tailEffect 5 (fun v t => t.mixAB v s.params.q[2]) .big bs s
  | .tailQ1Le => tailQ1Effect .little bs s
  | .tailQ1Be => tailQ1Effect .big bs s
  | .remix => (s.setAB (remix32 s.params s.a s.b).1 s.b).setRes (remix32 s.params s.a s.b).2
  | .fetch32Le => fetchEffect .little bs s
  | .fetch32Be => fetchEffect .big bs s
  | .tail32Le => tail32Effect .little bs s
  | .tail32Be => tail32Effect .big bs s
  | .mixupAb k => s.mixAB s.w ((primeAt s.params k).getD 0)
  | .mixupBa k => s.mixBA s.w ((primeAt s.params k).getD 0)

/-- The micro-operation of a command. -/
def microOf (i : Instr) (s : State) : MicroResult :=
  match i with
  | .hashLe | .hashBe => .ok s
  | .init => microInit s
  | .bulkSetup => microBulkSetup s
  | .bulkBlockLe => microBulkBlock .little s
  | .bulkBlockBe => microBulkBlock .big s
  | .bulkFold => microBulkFold s
  | .tailQ4Le => microTailQ4 .little s
  | .tailQ4Be => microTailQ4 .big s
  | .tailQ3Le => microTailQ3 .little s
  | .tailQ3Be => microTailQ3 .big s
  | .tailQ2Le => microTailQ2 .little s
  | .tailQ2Be => microTailQ2 .big s
  | .tailQ1Le => microTailQ1 .little s
  | .tailQ1Be => microTailQ1 .big s
  | .remix => microRemix s
  | .fetch32Le => microFetch32 .little s
  | .fetch32Be => microFetch32 .big s
  | .tail32Le => microTail32 .little s
  | .tail32Be => microTail32 .big s
  | .mixupAb k => microMixupAb ((primeAt s.params k).getD 0) s
  | .mixupBa k => microMixupBa ((primeAt s.params k).getD 0) s

/-- A word-reading tail step, in its three cases. -/
theorem microTailWord_eq (hi lo : Nat) (mix : Word → State → State) (e : ByteOrder) (s : State) :
    (s.n.toNat > hi ∨ s.n.toNat ≥ lo ∧ s.p.toNat + 4 > s.params.space →
      microTailWord hi lo mix e s = .range s.p.toNat) ∧
    (¬(s.n.toNat > hi ∨ s.n.toNat ≥ lo ∧ s.p.toNat + 4 > s.params.space) →
      microTailWord hi lo mix e s =
        match s.issue (if s.n.toNat ≥ lo then wordRequests s.params s.p.toNat else []) with
        | .bus x q => .bus x q
        | .ok bs _ => .ok (tailEffect lo mix e bs s)) := by
  constructor
  · intro hr
    unfold microTailWord
    by_cases h1 : s.n.toNat > hi
    · simp [h1]
    · have h2 := hr.resolve_left h1
      have h3 : ¬ s.n.toNat < lo := by omega
      simp [h1, h3, h2.2]
  · intro hr
    rw [not_or, not_and] at hr
    unfold microTailWord
    by_cases h3 : s.n.toNat < lo
    · have : ¬ s.n.toNat ≥ lo := by omega
      simp [hr.1, h3, this, State.issue, tailEffect]
    · have h4 : s.n.toNat ≥ lo := by omega
      simp only [if_neg hr.1, if_neg h3, if_neg (hr.2 h4), if_pos h4]
      cases hi : s.issue (wordRequests s.params s.p.toNat) with
      | bus x q => rfl
      | ok bs q => simp only [tailEffect, if_neg h3, issue_ok_issued _ _ _ _ hi]

theorem microTailQ1_eq (e : ByteOrder) (s : State) :
    (s.n.toNat > 4 ∨ s.n.toNat ≥ 1 ∧ s.p.toNat + s.n.toNat > s.params.space → microTailQ1 e s = .range s.p.toNat) ∧
    (¬(s.n.toNat > 4 ∨ s.n.toNat ≥ 1 ∧ s.p.toNat + s.n.toNat > s.params.space) →
      microTailQ1 e s =
        match s.issue (if s.n.toNat ≥ 1 then tailRequests s.params s.p.toNat s.n.toNat else []) with
        | .bus x q => .bus x q
        | .ok bs _ => .ok (tailQ1Effect e bs s)) := by
  constructor
  · intro hr
    unfold microTailQ1
    by_cases h1 : s.n.toNat > 4
    · simp [h1]
    · have h2 := hr.resolve_left h1
      have h3 : ¬ s.n.toNat < 1 := by omega
      simp only [if_neg h1, if_neg h3, if_pos h2.2]
  · intro hr
    rw [not_or, not_and] at hr
    unfold microTailQ1
    by_cases h3 : s.n.toNat < 1
    · have : ¬ s.n.toNat ≥ 1 := by omega
      simp only [if_neg hr.1, if_pos h3, if_neg this, State.issue, tailQ1Effect]
    · have h4 : s.n.toNat ≥ 1 := by omega
      simp only [if_neg hr.1, if_neg h3, if_neg (hr.2 h4), if_pos h4]
      cases hi : s.issue (tailRequests s.params s.p.toNat s.n.toNat) with
      | bus x q => rfl
      | ok bs q => simp only [tailQ1Effect, if_neg h3, issue_ok_issued _ _ _ _ hi]

/-- A micro-operation whose bound check fails raises RANGE, whatever else it would do. -/
theorem microOf_range (i : Instr) (s : State) (h : rangeFails i s) : microOf i s = .range (rangeAddr i s) := by
  cases i <;> simp only [rangeFails] at h <;> simp only [rangeAddr, reduceCtorEq, if_false, if_true]
  case init => simp [microOf, microInit, h]
  case bulkBlockLe => simp [microOf, microBulkBlock, h]
  case bulkBlockBe => simp [microOf, microBulkBlock, h]
  case tailQ4Le => exact (microTailWord_eq 16 13 (fun v t => t.mixAB v s.params.q[4]) .little s).1 h
  case tailQ4Be => exact (microTailWord_eq 16 13 (fun v t => t.mixAB v s.params.q[4]) .big s).1 h
  case tailQ3Le => exact (microTailWord_eq 12 9 (fun v t => t.mixBA v s.params.q[3]) .little s).1 h
  case tailQ3Be => exact (microTailWord_eq 12 9 (fun v t => t.mixBA v s.params.q[3]) .big s).1 h
  case tailQ2Le => exact (microTailWord_eq 8 5 (fun v t => t.mixAB v s.params.q[2]) .little s).1 h
  case tailQ2Be => exact (microTailWord_eq 8 5 (fun v t => t.mixAB v s.params.q[2]) .big s).1 h
  case tailQ1Le => exact (microTailQ1_eq _ s).1 h
  case tailQ1Be => exact (microTailQ1_eq _ s).1 h
  case fetch32Le => simp [microOf, microFetch32, h]
  case fetch32Be => simp [microOf, microFetch32, h]
  case tail32Le => simp only [microOf, microTail32, if_pos h]
  case tail32Be => simp only [microOf, microTail32, if_pos h]

/-- A micro-operation whose bound check holds issues its requests: BUS at the first that fails, else its effect. -/
theorem microOf_issue (i : Instr) (s : State) (h : ¬rangeFails i s) :
    microOf i s = match s.issue (requestsOf i s) with
      | .bus x q => .bus x q
      | .ok bs _ => .ok (effect i bs s) := by
  have block (e : ByteOrder) (h : ¬(s.n.toNat < 16 ∨ s.p.toNat + 16 > s.params.space)) :
      microBulkBlock e s = match s.issue (blockRequests s.params s.p.toNat) with
        | .bus x q => .bus x q
        | .ok bs _ => .ok (blockEffect e bs s) := by
    simp only [microBulkBlock, if_neg h]
    cases hi : s.issue (blockRequests s.params s.p.toNat) with
    | bus x q => rfl
    | ok bs q => simp only [blockEffect, issue_ok_issued _ _ _ _ hi]
  have fetch (e : ByteOrder) (h : ¬(s.n.toNat < 4 ∨ s.p.toNat + 4 > s.params.space)) :
      microFetch32 e s = match s.issue (wordRequests s.params s.p.toNat) with
        | .bus x q => .bus x q
        | .ok bs _ => .ok (fetchEffect e bs s) := by
    simp only [microFetch32, if_neg h]
    cases hi : s.issue (wordRequests s.params s.p.toNat) with
    | bus x q => rfl
    | ok bs q => simp only [fetchEffect, issue_ok_issued _ _ _ _ hi]
  have tail (e : ByteOrder) (h : ¬(s.n.toNat < 1 ∨ s.n.toNat > 4 ∨ s.p.toNat + s.n.toNat > s.params.space)) :
      microTail32 e s = match s.issue (tailRequests s.params s.p.toNat s.n.toNat) with
        | .bus x q => .bus x q
        | .ok bs _ => .ok (tail32Effect e bs s) := by
    simp only [microTail32, if_neg h]
    cases hi : s.issue (tailRequests s.params s.p.toNat s.n.toNat) with
    | bus x q => rfl
    | ok bs q => simp only [tail32Effect, issue_ok_issued _ _ _ _ hi]
  cases i <;> simp only [rangeFails] at h
  case hashLe => rfl
  case hashBe => rfl
  case init => simp [microOf, microInit, h, requestsOf, State.issue, effect]
  case bulkSetup => rfl
  case bulkBlockLe => exact block _ h
  case bulkBlockBe => exact block _ h
  case bulkFold => rfl
  case tailQ4Le => exact (microTailWord_eq 16 13 (fun v t => t.mixAB v s.params.q[4]) .little s).2 h
  case tailQ4Be => exact (microTailWord_eq 16 13 (fun v t => t.mixAB v s.params.q[4]) .big s).2 h
  case tailQ3Le => exact (microTailWord_eq 12 9 (fun v t => t.mixBA v s.params.q[3]) .little s).2 h
  case tailQ3Be => exact (microTailWord_eq 12 9 (fun v t => t.mixBA v s.params.q[3]) .big s).2 h
  case tailQ2Le => exact (microTailWord_eq 8 5 (fun v t => t.mixAB v s.params.q[2]) .little s).2 h
  case tailQ2Be => exact (microTailWord_eq 8 5 (fun v t => t.mixAB v s.params.q[2]) .big s).2 h
  case tailQ1Le => exact (microTailQ1_eq _ s).2 h
  case tailQ1Be => exact (microTailQ1_eq _ s).2 h
  case remix => rfl
  case fetch32Le => exact fetch _ h
  case fetch32Be => exact fetch _ h
  case tail32Le => exact tail _ h
  case tail32Be => exact tail _ h
  case mixupAb k => rfl
  case mixupBa k => rfl

/-- The meaning of a micro-operation command is its micro-operation and the end of the command. -/
theorem exec_eq_finishMicro (i : Instr) (s : State) (hw : i.wf = true) (hh : isHash i = false) :
    exec i s = finishMicro (startPhase i) s (microOf i s) := by
  cases i
  case mixupAb k => simp [exec, execMixupAb, primeAt_of_lt _ _ (Instr.wf_mixup k hw), startPhase, microOf]
  case mixupBa k => simp [exec, execMixupBa, primeAt_of_lt _ _ (Instr.wf_mixup k hw), startPhase, microOf]
  case hashLe => cases hh
  case hashBe => cases hh
  all_goals rfl

/-- An ill-formed command answers no next state. -/
theorem wf_of_exec_next (i : Instr) (s t : State) (h : exec i s = .next t) : i.wf = true := by
  cases i
  case mixupAb k =>
    by_contra hk
    have : k = 7 := by simpa [Instr.wf] using hk
    subst this
    simp [exec, execMixupAb, primeAt] at h
  case mixupBa k =>
    by_contra hk
    have : k = 7 := by simpa [Instr.wf] using hk
    subst this
    simp [exec, execMixupBa, primeAt] at h
  all_goals rfl

/-- RANGE. -/
theorem exec_range (i : Instr) (s : State) (hh : isHash i = false) (h : rangeFails i s) :
    exec i s = .next (s.raiseRange (startPhase i) (rangeAddr i s)) := by
  have hw : i.wf = true := by cases i <;> first | rfl | simp [rangeFails] at h
  rw [exec_eq_finishMicro i s hw hh, microOf_range i s h]; rfl

/-- BUS. -/
theorem exec_bus (i : Instr) (s : State) (hw : i.wf = true) (hh : isHash i = false) (h : ¬rangeFails i s) (x : Nat)
    (q : List Request) (hi : s.issue (requestsOf i s) = .bus x q) :
    exec i s = .next (s.raiseBus (startPhase i) x q) := by
  rw [exec_eq_finishMicro i s hw hh, microOf_issue i s h, hi]; rfl

/-- Completion. -/
theorem exec_ok (i : Instr) (s : State) (hw : i.wf = true) (hh : isHash i = false) (h : ¬rangeFails i s)
    (bs : List Byte) (q : List Request) (hi : s.issue (requestsOf i s) = .ok bs q) :
    exec i s = .next (effect i bs s).endCommand := by
  rw [exec_eq_finishMicro i s hw hh, microOf_issue i s h, hi]; rfl

/-- Everything that a micro-operation command can do. -/
theorem exec_cases (i : Instr) (s t : State) (hh : isHash i = false) (h : exec i s = .next t) :
    i.wf = true ∧
    ((rangeFails i s ∧ t = s.raiseRange (startPhase i) (rangeAddr i s)) ∨
     (¬rangeFails i s ∧ ∃ x q, s.issue (requestsOf i s) = .bus x q ∧ t = s.raiseBus (startPhase i) x q) ∨
     (¬rangeFails i s ∧ ∃ bs, s.issue (requestsOf i s) = .ok bs (requestsOf i s) ∧ t = (effect i bs s).endCommand)) := by
  have hw := wf_of_exec_next i s t h
  refine ⟨hw, ?_⟩
  by_cases hr : rangeFails i s
  · rw [exec_range i s hh hr] at h; cases h; exact .inl ⟨hr, rfl⟩
  · cases hi : s.issue (requestsOf i s) with
    | bus x q =>
      rw [exec_bus i s hw hh hr x q hi] at h; cases h; exact .inr (.inl ⟨hr, x, q, rfl, rfl⟩)
    | ok bs q =>
      rw [exec_ok i s hw hh hr bs q hi] at h; cases h
      exact .inr (.inr ⟨hr, bs, by rw [issue_ok_issued _ _ _ _ hi], rfl⟩)

/-! ## HASH -/

/-- The micro-operation that HASH runs is that of the command its phase names. -/
theorem hashMicro_eq (e : ByteOrder) (ph : Phase) (s : State) :
    hashMicro e ph s = (microCommand e ph).map fun i => microOf i s := by
  cases ph <;> cases e <;> rfl

theorem microCommand_props (e : ByteOrder) (ph : Phase) (i : Instr) (h : microCommand e ph = some i) :
    i.wf = true ∧ isHash i = false ∧ startPhase i = ph := by
  cases ph <;> cases e <;> simp [microCommand] at h <;> subst h <;> exact ⟨rfl, rfl, rfl⟩

theorem exec_hashCommand (e : ByteOrder) (s : State) : exec (hashCommand e) s = hashStep e s := by cases e <;> rfl

theorem nextPhase_eq (ph : Phase) (s : State) : nextPhase ph s = hashNext s.len.toNat s.n.toNat ph := by
  cases ph <;> rfl

theorem hashNext_idle (len n : Nat) (ph : Phase) (e : ByteOrder) (i : Instr) (h : microCommand e ph = some i) :
    hashNext len n ph = .idle ↔ ph = .remix := by
  cases ph <;> simp [hashNext, microCommand] at h ⊢ <;> split <;> simp

/-- Where a step of HASH leads when its micro-operation succeeds. -/
theorem hashAdvance_eq (ph : Phase) (s : State) :
    hashAdvance ph s =
      if hashNext s.len.toNat s.n.toNat ph = .idle then s.endHash else s.setPhase (hashNext s.len.toNat s.n.toNat ph) := by
  simp only [hashAdvance, nextPhase_eq]
  cases hashNext s.len.toNat s.n.toNat ph <;> rfl

/-- RANGE inside HASH. -/
theorem hash_range (e : ByteOrder) (s : State) (i : Instr) (hc : microCommand e s.phase = some i) (h : rangeFails i s) :
    exec (hashCommand e) s = .next (s.raiseRange s.phase (rangeAddr i s)) := by
  simp [exec_hashCommand, hashStep, hashMicro_eq, hc, microOf_range i s h]

/-- BUS inside HASH. -/
theorem hash_bus (e : ByteOrder) (s : State) (i : Instr) (hc : microCommand e s.phase = some i) (h : ¬rangeFails i s)
    (x : Nat) (q : List Request) (hi : s.issue (requestsOf i s) = .bus x q) :
    exec (hashCommand e) s = .next (s.raiseBus s.phase x q) := by
  simp [exec_hashCommand, hashStep, hashMicro_eq, hc, microOf_issue i s h, hi]

/-- A step of HASH that succeeds. -/
theorem hash_ok (e : ByteOrder) (s : State) (i : Instr) (hc : microCommand e s.phase = some i) (h : ¬rangeFails i s)
    (bs : List Byte) (q : List Request) (hi : s.issue (requestsOf i s) = .ok bs q) :
    exec (hashCommand e) s = .next (hashAdvance s.phase (effect i bs s)) := by
  simp [exec_hashCommand, hashStep, hashMicro_eq, hc, microOf_issue i s h, hi]

/-- Everything that a step of HASH can do. -/
theorem hash_cases (e : ByteOrder) (s t : State) (h : exec (hashCommand e) s = .next t) :
    ∃ i, microCommand e s.phase = some i ∧
      ((rangeFails i s ∧ t = s.raiseRange s.phase (rangeAddr i s)) ∨
       (¬rangeFails i s ∧ ∃ x q, s.issue (requestsOf i s) = .bus x q ∧ t = s.raiseBus s.phase x q) ∨
       (¬rangeFails i s ∧ ∃ bs, s.issue (requestsOf i s) = .ok bs (requestsOf i s) ∧
         t = hashAdvance s.phase (effect i bs s))) := by
  cases hc : microCommand e s.phase with
  | none => simp [exec_hashCommand, hashStep, hashMicro_eq, hc] at h
  | some i =>
    refine ⟨i, rfl, ?_⟩
    by_cases hr : rangeFails i s
    · rw [hash_range e s i hc hr] at h; cases h; exact .inl ⟨hr, rfl⟩
    · cases hi : s.issue (requestsOf i s) with
      | bus x q =>
        rw [hash_bus e s i hc hr x q hi] at h; cases h; exact .inr (.inl ⟨hr, x, q, rfl, rfl⟩)
      | ok bs q =>
        rw [hash_ok e s i hc hr bs q hi] at h; cases h
        exact .inr (.inr ⟨hr, bs, by rw [issue_ok_issued _ _ _ _ hi], rfl⟩)

/-- A command is a HASH command or not. -/
theorem isHash_cases (i : Instr) : isHash i = false ∨ ∃ e, i = hashCommand e := by
  cases i
  case hashLe => exact .inr ⟨.little, rfl⟩
  case hashBe => exact .inr ⟨.big, rfl⟩
  all_goals exact .inl rfl

end Sys2Proof.Machine
end

