-- ==== Sys2Proof/Laws/Progress.lean ====
section
/-!
SUPPORT. What the effect of a micro-operation leaves alone and which requests it issues, how a running HASH moves through its
buffer, which command the latch and the phase name, and how steps make runs.
-/

namespace Sys2Proof.Machine

/-- The effect of a micro-operation writes no parameter, no input, no control field and no memory. -/
theorem effect_frame (s : State) (i : Instr) (bs : List Byte) :
    (effect i bs s).params = s.params ∧ (effect i bs s).cmd = s.cmd ∧ (effect i bs s).ovr = s.ovr ∧
    (effect i bs s).ecur = s.ecur ∧ (effect i bs s).cur = s.cur ∧ (effect i bs s).addr = s.addr ∧
    (effect i bs s).len = s.len ∧ (effect i bs s).seed = s.seed ∧ (effect i bs s).inReset = s.inReset ∧
    (effect i bs s).failing = s.failing ∧ (effect i bs s).held = s.held ∧ (effect i bs s).rdata = s.rdata ∧
    (effect i bs s).schedule = s.schedule ∧ (effect i bs s).mem = s.mem ∧ (effect i bs s).err = s.err ∧
    (effect i bs s).done = s.done ∧ (effect i bs s).busy = s.busy ∧ (effect i bs s).hseq = s.hseq ∧
    (effect i bs s).phase = s.phase ∧ (effect i bs s).ecode = s.ecode ∧ (effect i bs s).ephase = s.ephase ∧
    (effect i bs s).eaddr = s.eaddr := by
  cases i <;> simp only [effect, blockEffect, tailEffect, tailQ1Effect, fetchEffect, tail32Effect, State.advance,
    State.mixAB, State.mixBA] <;> (try split) <;> simp

/-- P keeps to ADDR_W bits. -/
theorem effect_pBound (s : State) (i : Instr) (bs : List Byte) (h : s.p.toNat < s.params.space) :
    (effect i bs s).p.toNat < s.params.space := by
  cases i <;> simp only [effect, blockEffect, tailEffect, tailQ1Effect, fetchEffect, tail32Effect, State.advance,
    State.mixAB, State.mixBA] <;> (try split) <;> simp [-truncAddr_toNat, truncAddr_lt, h]

/-- Consuming `k` of the remaining bytes keeps P where N says it is. -/
theorem onBuffer_advance (s t : State) (k : Nat) (h : s.onBuffer) (hk : k ≤ s.n.toNat) (ha : t.addr = s.addr)
    (hl : t.len = s.len) (hpar : t.params = s.params) (hp : t.p = truncAddr s.params (s.p + BitVec.ofNat 64 k))
    (hn : t.n = s.n - BitVec.ofNat 64 k) : t.onBuffer ∧ t.n.toNat = s.n.toNat - k := by
  obtain ⟨h1, h2, h3⟩ := h
  have sd := s.params.space_dvd
  have hN := s.n.isLt
  have hn' : t.n.toNat = s.n.toNat - k := by
    rw [hn, BitVec.toNat_sub, BitVec.toNat_ofNat]; omega
  refine ⟨⟨by rw [ha, hl, hpar]; exact h1, by rw [hl]; omega, ?_⟩, hn'⟩
  rw [hp, hpar, ha, hl, truncAddr_toNat, BitVec.toNat_add, BitVec.toNat_ofNat, hn', h3, Nat.mod_mod_of_dvd _ sd,
    Nat.add_mod, Nat.mod_mod_of_dvd _ sd, ← Nat.add_mod, Nat.mod_add_mod]
  congr 1; omega

/-- Within HASH a micro-operation that succeeds leads to a phase whose place in the buffer is as it should be. -/
theorem hashProgress_advance (e : ByteOrder) (s : State) (i : Instr) (bs : List Byte) (hI : s.Inv) (hh : s.hseq = true)
    (hc : microCommand e s.phase = some i) (hr : ¬rangeFails i s) (hne : s.phase ≠ .remix) :
    State.hashProgress ((effect i bs s).setPhase
      (hashNext (effect i bs s).len.toNat (effect i bs s).n.toNat s.phase)) := by
  have hp := hI.progress hh
  have hN := s.n.isLt
  obtain ⟨cp, -, -, -, -, ca, cl, -⟩ := effect_frame s i bs
  unfold State.hashProgress at hp ⊢
  simp only [State.setPhase_phase, State.setPhase_n, State.setPhase_len]
  cases hph : s.phase <;> rw [hph] at hp hc <;> simp only at hp <;>
    simp only [microCommand, Option.some.injEq] at hc
  case remix => exact absurd hph hne
  case init =>
    subst hc
    simp only [rangeFails] at hr
    have hab := hI.addrBound
    have ho : State.onBuffer ((effect .init bs s)) := by
      refine ⟨by rw [cp, ca, cl]; omega, by simp [effect], ?_⟩
      simp [effect]
    have hn : (effect .init bs s).n = s.len := rfl
    simp only [hashNext, hn, cl]
    by_cases h : s.len.toNat > 16
    · simp only [if_pos h]; exact ⟨ho, trivial, h⟩
    · simp only [if_neg h]; exact ⟨ho, by omega⟩
  case bulkSetup =>
    subst hc
    exact ⟨⟨hp.1.1, hp.1.2.1, hp.1.2.2⟩, by show 16 < s.len.toNat; rw [← hp.2.1]; exact hp.2.2,
      by show 16 ≤ s.n.toNat; omega⟩
  case bulkFold =>
    subst hc
    exact ⟨⟨hp.1.1, hp.1.2.1, hp.1.2.2⟩, by show s.n.toNat ≤ 16; omega⟩
  case bulkBlock =>
    have : effect i bs s = blockEffect e bs s := by cases e <;> cases hc <;> rfl
    obtain ⟨ho, hn⟩ := onBuffer_advance s (effect i bs s) 16 hp.1 hp.2.2 ca cl cp (by rw [this]; rfl)
      (by rw [this]; rfl)
    simp only [hashNext, cl]
    by_cases h16 : (effect i bs s).n.toNat ≥ 16
    · simp only [if_pos h16]; exact ⟨ho, hp.2.1, h16⟩
    · simp only [if_neg h16]; exact ⟨ho, hp.2.1, by omega⟩
  case tailQ4 =>
    have hE : effect i bs s = tailEffect 13 (fun v t => t.mixAB v s.params.q[4]) e bs s := by cases e <;> cases hc <;> rfl
    simp only [hashNext]
    by_cases hlo : s.n.toNat < 13
    · have : effect i bs s = s := by rw [hE, tailEffect, if_pos hlo]
      rw [this]; exact ⟨hp.1, by omega⟩
    · have hx := hE; rw [tailEffect, if_neg hlo] at hx
      obtain ⟨ho, hn⟩ := onBuffer_advance s (effect i bs s) 4 hp.1 (by omega) ca cl cp (by rw [hx]; rfl)
        (by rw [hx]; rfl)
      exact ⟨ho, by omega⟩
  case tailQ3 =>
    have hE : effect i bs s = tailEffect 9 (fun v t => t.mixBA v s.params.q[3]) e bs s := by cases e <;> cases hc <;> rfl
    simp only [hashNext]
    by_cases hlo : s.n.toNat < 9
    · have : effect i bs s = s := by rw [hE, tailEffect, if_pos hlo]
      rw [this]; exact ⟨hp.1, by omega⟩
    · have hx := hE; rw [tailEffect, if_neg hlo] at hx
      obtain ⟨ho, hn⟩ := onBuffer_advance s (effect i bs s) 4 hp.1 (by omega) ca cl cp (by rw [hx]; rfl)
        (by rw [hx]; rfl)
      exact ⟨ho, by omega⟩
  case tailQ2 =>
    have hE : effect i bs s = tailEffect 5 (fun v t => t.mixAB v s.params.q[2]) e bs s := by cases e <;> cases hc <;> rfl
    simp only [hashNext]
    by_cases hlo : s.n.toNat < 5
    · have : effect i bs s = s := by rw [hE, tailEffect, if_pos hlo]
      rw [this]; exact ⟨hp.1, by omega⟩
    · have hx := hE; rw [tailEffect, if_neg hlo] at hx
      obtain ⟨ho, hn⟩ := onBuffer_advance s (effect i bs s) 4 hp.1 (by omega) ca cl cp (by rw [hx]; rfl)
        (by rw [hx]; rfl)
      exact ⟨ho, by omega⟩
  case tailQ1 =>
    have hE : effect i bs s = tailQ1Effect e bs s := by cases e <;> cases hc <;> rfl
    simp only [hashNext]
    by_cases hlo : s.n.toNat < 1
    · have : effect i bs s = s := by rw [hE, tailQ1Effect, if_pos hlo]
      rw [this]; exact ⟨hp.1, BitVec.eq_of_toNat_eq (by simp; omega)⟩
    · have hx := hE; rw [tailQ1Effect, if_neg hlo] at hx
      obtain ⟨ho, hn⟩ := onBuffer_advance s (effect i bs s) s.n.toNat hp.1 (by omega) ca cl cp (by rw [hx]; rfl)
        (by rw [hx]; rfl)
      exact ⟨ho, BitVec.eq_of_toNat_eq (by simp; omega)⟩

/-- Within HASH, after INIT, no bound check fails. -/
theorem not_rangeFails_of_progress (e : ByteOrder) (s : State) (i : Instr) (hI : s.Inv) (hh : s.hseq = true)
    (hc : microCommand e s.phase = some i) (hne : s.phase ≠ .init) : ¬rangeFails i s := by
  have hp := hI.progress hh
  have sp := s.params.space_pos
  have exact_p : s.onBuffer → 0 < s.n.toNat → s.p.toNat + s.n.toNat = s.addr.toNat + s.len.toNat := by
    rintro ⟨h1, h2, h3⟩ h4
    rw [h3, Nat.mod_eq_of_lt (by omega)]; omega
  unfold State.hashProgress at hp
  cases hph : s.phase <;> rw [hph] at hp hc <;> simp only at hp <;>
    simp only [microCommand, Option.some.injEq] at hc
  case init => exact absurd hph hne
  case bulkBlock =>
    have := exact_p hp.1 (by omega); have := hp.1.1
    have : ¬ (s.n.toNat < 16 ∨ s.p.toNat + 16 > s.params.space) := by omega
    cases e <;> cases hc <;> exact this
  case tailQ4 =>
    have : ¬ (s.n.toNat > 16 ∨ s.n.toNat ≥ 13 ∧ s.p.toNat + 4 > s.params.space) := by
      rintro (h | ⟨h, h'⟩)
      · omega
      · have := exact_p hp.1 (by omega); have := hp.1.1; omega
    cases e <;> cases hc <;> exact this
  case tailQ3 =>
    have : ¬ (s.n.toNat > 12 ∨ s.n.toNat ≥ 9 ∧ s.p.toNat + 4 > s.params.space) := by
      rintro (h | ⟨h, h'⟩)
      · omega
      · have := exact_p hp.1 (by omega); have := hp.1.1; omega
    cases e <;> cases hc <;> exact this
  case tailQ2 =>
    have : ¬ (s.n.toNat > 8 ∨ s.n.toNat ≥ 5 ∧ s.p.toNat + 4 > s.params.space) := by
      rintro (h | ⟨h, h'⟩)
      · omega
      · have := exact_p hp.1 (by omega); have := hp.1.1; omega
    cases e <;> cases hc <;> exact this
  case tailQ1 =>
    have : ¬ (s.n.toNat > 4 ∨ s.n.toNat ≥ 1 ∧ s.p.toNat + s.n.toNat > s.params.space) := by
      rintro (h | ⟨h, h'⟩)
      · omega
      · have := exact_p hp.1 (by omega); have := hp.1.1; omega
    cases e <;> cases hc <;> exact this
  case bulkSetup => subst hc; exact fun h => h
  case bulkFold => subst hc; exact fun h => h
  case remix => subst hc; exact fun h => h

/-- The latch and the phase that acceptance sets name the accepted command. -/
theorem commandAt_start (op : BitVec 4) (e : Bool) (k : BitVec 3) (x : Bool) (i : Instr)
    (h : decodeFields op e k x = .legal i) :
    commandAt (startPhase i) (isHash i) ⟨op, e, k, x⟩ = some i ∧
      (isHash i = true → i = if e then .hashBe else .hashLe) := by
  unfold decodeFields at h
  split at h
  case h_14 => cases h
  all_goals
    simp only [decodeOrdered, decodeFree, decodeMixup] at h
    cases e <;> cases x <;> simp at h <;> split at h <;> cases h <;> exact ⟨rfl, by simp [isHash]⟩

theorem commandAt_hash (ph : Phase) (c : Cur) (h : ph ≠ .idle) :
    commandAt ph true c = some (if c.e then .hashBe else .hashLe) := by
  cases ph <;> simp_all [commandAt]

/-- In a state that meets the invariant with BUSY = 1, the engine's next step is the latched command's. -/
theorem currentInstr_spec (s : State) (hI : s.Inv) (hb : s.busy = true) :
    ∃ i, decodeFields s.cur.op s.cur.e s.cur.k s.cur.x = .legal i ∧ s.currentInstr = some i ∧
      (s.hseq = false → isHash i = false ∧ startPhase i = s.phase) ∧ (s.hseq = true → ∃ e, i = hashCommand e) := by
  obtain ⟨i, hd, hh, hs⟩ := hI.running hb
  obtain ⟨g1, g2⟩ := commandAt_start _ _ _ _ i hd
  refine ⟨i, hd, ?_, ?_, ?_⟩
  · cases hq : s.hseq with
    | true =>
      rw [State.currentInstr, hq, commandAt_hash _ _ (hI.busyPhase.1 hb), ← g2 (by rw [hh, hq])]
    | false => rw [State.currentInstr, hs hq, hq, ← hq, ← hh]; exact g1
  · intro hq; exact ⟨by rw [hh, hq], (hs hq).symm⟩
  · intro hq
    rcases isHash_cases i with h | h
    · rw [hh, hq] at h; cases h
    · exact h

/-! ## Requests -/

/-- The effect of a micro-operation leaves its requests in the read history. -/
theorem effect_reads (i : Instr) (bs : List Byte) (s : State) : (effect i bs s).reads = s.reads ++ requestsOf i s := by
  cases i <;> simp only [effect, blockEffect, tailEffect, tailQ1Effect, fetchEffect, tail32Effect, requestsOf,
    State.advance, State.mixAB, State.mixBA] <;> (try split) <;> (try split) <;> simp_all [State.noteReads] <;> omega

/-- Requests that the memory answers are issued without a failure. -/
theorem issue_of_answers (s : State) (qs : List Request) (h : s.answers qs) : ∃ bs, s.issue qs = .ok bs qs := by
  induction qs with
  | nil => exact ⟨[], rfl⟩
  | cons q qs ih =>
    obtain ⟨bs, hb⟩ := ih fun r hr => h r (by simp [hr])
    obtain ⟨b, hq⟩ := Option.ne_none_iff_exists'.1 (h q (by simp))
    exact ⟨b ++ bs, by simp [State.issue, hq, hb]⟩

/-- Where the requests of a micro-operation lie when its bound check holds, and what sizes they have. -/
theorem mem_requestsOf (i : Instr) (s : State) (hr : ¬rangeFails i s) (q : Request) (hq : q ∈ requestsOf i s) :
    s.p.toNat ≤ q.addr ∧ q.addr + q.size ≤ s.p.toNat + s.n.toNat ∧ q.addr + q.size ≤ s.params.space ∧
      (q.size = 1 ∨ q.size = 4 ∧ (q.addr % 4 = 0 ∨ s.params.unalignedOk = true)) := by
  cases i <;> simp only [requestsOf, rangeFails] at hr hq <;> (try split at hq) <;> (try (simp at hq; done))
  all_goals first
    | (obtain ⟨a, b, c⟩ := mem_blockRequests _ _ q hq; exact ⟨by omega, by omega, by omega, c⟩)
    | (obtain ⟨a, b, c⟩ := mem_wordRequests _ _ q hq; exact ⟨by omega, by omega, by omega, c⟩)
    | (obtain ⟨a, b, c⟩ := mem_tailRequests _ _ _ q hq; exact ⟨by omega, by omega, by omega, c⟩)

/-! ## States that differ little -/

/-- The invariant passes to a state that differs only where it says nothing, or that has DONE or the error cleared. -/
theorem State.Inv.congr (s t : State) (hI : s.Inv) (h1 : t.params = s.params)
    (h2 : Memory.wf t.mem = true ∧ Memory.within s.params.space t.mem = true) (h3 : t.addr = s.addr) (h4 : t.p = s.p)
    (h5 : t.eaddr = s.eaddr) (h6 : t.busy = s.busy) (h7 : t.phase = s.phase) (h8 : t.hseq = s.hseq)
    (h9 : t.done = true → s.done = true)
    (h10 : (t.err = s.err ∧ t.ecode = s.ecode ∧ t.ephase = s.ephase) ∨
      (t.err = false ∧ t.ecode = .none ∧ t.ephase = .idle))
    (h12 : t.ecur = s.ecur) (h13 : t.cur = s.cur) (h14 : t.inReset = true → s.inReset = true) (h15 : t.len = s.len)
    (h16 : t.n = s.n) : t.Inv := by
  have hd : s.done = false → t.done = false := fun h => by
    by_contra h'
    have := h9 (by simpa using h')
    rw [h] at this; cases this
  have he : s.err = false → t.err = false := fun h => by rcases h10 with g | g <;> simp [g, h]
  exact {
    memForm := h2.1
    memBound := by rw [h1]; exact h2.2
    addrBound := by rw [h1, h3]; exact hI.addrBound
    pBound := by rw [h1, h4]; exact hI.pBound
    eaddrBound := by rw [h1, h5]; exact hI.eaddrBound
    busyPhase := by rw [h6, h7]; exact hI.busyPhase
    hseqBusy := by rw [h6, h8]; exact hI.hseqBusy
    busyClear := by rw [h6]; exact fun h => ⟨hd (hI.busyClear h).1, he (hI.busyClear h).2⟩
    oneEnd := by
      rintro ⟨g1, g2⟩
      rcases h10 with g | g
      · exact hI.oneEnd ⟨h9 g1, by rw [← g.1]; exact g2⟩
      · rw [g.1] at g2; cases g2
    errCode := by
      rcases h10 with g | g
      · rw [g.1, g.2.1]; exact hI.errCode
      · simp [g]
    errPhase := by
      rcases h10 with g | g
      · rw [g.1, g.2.2]; exact hI.errPhase
      · simp [g]
    ecurCur := by rw [h12, h13]; exact hI.ecurCur
    running := by rw [h6, h13, h8, h7]; exact hI.running
    progress := by
      intro hq
      have := hI.progress (by rw [← h8]; exact hq)
      unfold State.hashProgress State.onBuffer at this ⊢
      rw [h7, h1, h3, h15, h16, h4]; exact this
    resetIdle := by rw [h6]; exact fun h => hI.resetIdle (h14 h) }

/-! ## Turns and runs -/

/-- With nothing scheduled a step is the engine's turn. -/
theorem step_of_schedule_nil (s : State) (h : s.schedule = []) : step s = s.engineTurn := by simp only [step, h]

/-- The engine's turn runs the current command. -/
theorem engineTurn_of_current (s : State) (i : Instr) (hb : s.busy = true) (hr : s.inReset = false)
    (hi : s.currentInstr = some i) : s.engineTurn = exec i s := by simp only [State.engineTurn, hb, hr, hi]; rfl

/-- One step more at the front of a run. -/
theorem runsTo_succ (k : Nat) (s t u : State) (h : step s = .next t) : runsTo (k + 1) s u ↔ runsTo k t u := by
  have h' : core.step s = .next t := h
  simp only [runsTo, Host.Core.run, h']

/-- Runs compose. -/
theorem runsTo_trans (j k : Nat) (s t u : State) (h : runsTo j s t) (g : runsTo k t u) : runsTo (j + k) s u := by
  induction j generalizing s with
  | zero => cases h; simpa using g
  | succ j ih =>
    cases hs : step s with
    | next s' =>
      rw [show j + 1 + k = (j + k) + 1 by omega, runsTo_succ _ _ _ _ hs]
      exact ih _ ((runsTo_succ _ _ _ _ hs).1 h)
    | fault r =>
      have h' : core.step s = .fault r := hs
      simp only [runsTo, Host.Core.run, h'] at h; cases h
    | refused r =>
      have h' : core.step s = .refused r := hs
      simp only [runsTo, Host.Core.run, h'] at h; cases h

end Sys2Proof.Machine
end

