-- ==== Sys2Proof/Laws/PerInstr.lean ====
section
/-!
SUPPORT. A statement of every instruction as syntax: a well-formed command's word is in its own row of the opcode table and in
no other (30_encoding.md §8).
-/

namespace Sys2Proof.Laws.EncodesItsRow

/-- The rows that admit the command's word are exactly the one with its mnemonic. -/
def Statement (i : Instr) : Prop :=
  i.wf = true → ((opcodeTable.filter fun r => r.admits (encode i)).map OpcodeRow.mnemonic) = [i.mnemonic]

theorem hashLe : Statement .hashLe := by unfold Statement; decide
theorem hashBe : Statement .hashBe := by unfold Statement; decide
theorem init : Statement .init := by unfold Statement; decide
theorem bulkSetup : Statement .bulkSetup := by unfold Statement; decide
theorem bulkBlockLe : Statement .bulkBlockLe := by unfold Statement; decide
theorem bulkBlockBe : Statement .bulkBlockBe := by unfold Statement; decide
theorem bulkFold : Statement .bulkFold := by unfold Statement; decide
theorem tailQ4Le : Statement .tailQ4Le := by unfold Statement; decide
theorem tailQ4Be : Statement .tailQ4Be := by unfold Statement; decide
theorem tailQ3Le : Statement .tailQ3Le := by unfold Statement; decide
theorem tailQ3Be : Statement .tailQ3Be := by unfold Statement; decide
theorem tailQ2Le : Statement .tailQ2Le := by unfold Statement; decide
theorem tailQ2Be : Statement .tailQ2Be := by unfold Statement; decide
theorem tailQ1Le : Statement .tailQ1Le := by unfold Statement; decide
theorem tailQ1Be : Statement .tailQ1Be := by unfold Statement; decide
theorem remix : Statement .remix := by unfold Statement; decide
theorem fetch32Le : Statement .fetch32Le := by unfold Statement; decide
theorem fetch32Be : Statement .fetch32Be := by unfold Statement; decide
theorem tail32Le : Statement .tail32Le := by unfold Statement; decide
theorem tail32Be : Statement .tail32Be := by unfold Statement; decide
theorem mixupAb (k : BitVec 3) : Statement (.mixupAb k) := by revert k; unfold Statement; decide
theorem mixupBa (k : BitVec 3) : Statement (.mixupBa k) := by revert k; unfold Statement; decide

end Sys2Proof.Laws.EncodesItsRow
end

