-- ==== Sys2Proof/Tests/Slice0.lean ====
section
/-!
SUPPORT. The model's own tests. Expected values are spec/95_test_vectors.md's (the vector is named), or the table of
30_encoding.md §8. A `witness_` theorem shows a concrete state and operands that meet the hypotheses of the obligation it
is named after, at a boundary of each clause.
-/

namespace Sys2Proof.Tests

open Sys2Proof.Machine

/-! ## Helpers -/

/-- A device in the reset state whose memory holds `bs` from `p` on, with P and N set. -/
def bufferAt (p n : Nat) (bs : List Byte) : State :=
  { State.reset with
    mem := (List.range bs.length).map fun i => (p + i, bs.getD i 0)
    p := BitVec.ofNat 64 p
    n := BitVec.ofNat 64 n }

/-- The same with ADDR and LEN set instead, for HASH. -/
def hashInput (x : Nat) (bs : List Byte) (seed : Dword) : State :=
  { bufferAt x 0 bs with addr := BitVec.ofNat 64 x, len := BitVec.ofNat 64 bs.length, p := 0, seed := seed }

/-- The bytes 00, 01, .. -/
def ascending (n : Nat) : List Byte := (List.range n).map (BitVec.ofNat 8)

/-- What `f` gives of the next state. -/
def nextOf {α : Type} (f : State → α) (r : Result) : Option α :=
  match r with
  | .next t => some (f t)
  | _ => none

/-- A, B, C, D, P, N. -/
def mixerRegs (t : State) : Word × Word × Word × Word × Addr × Dword := (t.a, t.b, t.c, t.d, t.p, t.n)

/-- Whether the command ended with ERR = 1 and DONE = 0; ECODE, EADDR, EPHASE; and how many reads were issued. -/
def errorReport (t : State) : Bool × ECode × Addr × Phase × Nat :=
  (t.err && !t.busy && !t.done, t.ecode, t.eaddr, t.ephase, t.reads.length)

/-! ## Decoding: the words of 30_encoding.md §8 -/

theorem test_decode_hash :
    decodeCommand 0b0000000000000001 = .legal .hashLe ∧ decodeCommand 0b0000000000010001 = .legal .hashBe := by decide

theorem test_decode_init_bulk :
    decodeCommand 0b0000000000000010 = .legal .init ∧ decodeCommand 0b0000000000000011 = .legal .bulkSetup ∧
    decodeCommand 0b0000000000000100 = .legal .bulkBlockLe ∧ decodeCommand 0b0000000000010100 = .legal .bulkBlockBe ∧
    decodeCommand 0b0000000000000101 = .legal .bulkFold := by decide

theorem test_decode_tail_steps :
    decodeCommand 0b0000000000000110 = .legal .tailQ4Le ∧ decodeCommand 0b0000000000010110 = .legal .tailQ4Be ∧
    decodeCommand 0b0000000000000111 = .legal .tailQ3Le ∧ decodeCommand 0b0000000000010111 = .legal .tailQ3Be ∧
    decodeCommand 0b0000000000001000 = .legal .tailQ2Le ∧ decodeCommand 0b0000000000011000 = .legal .tailQ2Be ∧
    decodeCommand 0b0000000000001001 = .legal .tailQ1Le ∧ decodeCommand 0b0000000000011001 = .legal .tailQ1Be := by
  decide

theorem test_decode_remix_fetch_tail :
    decodeCommand 0b0000000000001010 = .legal .remix ∧ decodeCommand 0b0000000000001011 = .legal .fetch32Le ∧
    decodeCommand 0b0000000000011011 = .legal .fetch32Be ∧ decodeCommand 0b0000000000001100 = .legal .tail32Le ∧
    decodeCommand 0b0000000000011100 = .legal .tail32Be := by decide

theorem test_decode_mixup :
    [0x000D, 0x002D, 0x004D, 0x006D, 0x008D, 0x00AD, 0x00CD].map decodeCommand =
      primeIndices.map (fun k => .legal (.mixupAb k)) ∧
    [0x010D, 0x012D, 0x014D, 0x016D, 0x018D, 0x01AD, 0x01CD].map decodeCommand =
      primeIndices.map (fun k => .legal (.mixupBa k)) := by decide

/-- One value for each clause (a) to (f) of R87; the all-zero word is illegal (R88). -/
theorem test_decode_illegal :
    decodeCommand 0x10001 = .illegal .upperBits ∧ decodeCommand 0x0000 = .illegal .reservedOp ∧
    decodeCommand 0x000E = .illegal .reservedOp ∧ decodeCommand 0x000F = .illegal .reservedOp ∧
    decodeCommand 0x0201 = .illegal .reservedBits ∧ decodeCommand 0x0012 = .illegal .byteOrder ∧
    decodeCommand 0x0021 = .illegal .mixupFields ∧ decodeCommand 0x0101 = .illegal .mixupFields ∧
    decodeCommand 0x00ED = .illegal .noConstant ∧ decodeCommand 0x01ED = .illegal .noConstant ∧
    decodeCommand 0x001D = .illegal .byteOrder := by decide

theorem test_decode_table_word :
    decodeTableWord 16 0x018D = some (.mixupBa 4) ∧ decodeTableWord 16 0x00ED = none ∧
    decodeTableWord 80 0x0001 = none := by decide

/-! ## Well-formedness: an ill-formed term for each check -/

theorem test_wf_mixup_ab_k7 : Instr.wf (.mixupAb 7) = false ∧ Instr.wf (.mixupAb 6) = true := by decide

theorem test_wf_mixup_ba_k7 : Instr.wf (.mixupBa 7) = false ∧ Instr.wf (.mixupBa 6) = true := by decide

/-- An even P0 is no legal parameter (00_scope.md R6). -/
theorem test_params_even_p0_illegal : ¬Params.legal { Config.recommended with p0 := 4 } := by
  rintro ⟨-, -, h⟩
  exact absurd h (by decide)

/-- A composite Q[0] is no legal parameter. -/
theorem test_params_composite_q_illegal : ¬Params.legal { Config.recommended with q := #v[9, 3, 3, 3, 3, 3, 3] } := by
  rintro ⟨h, -⟩
  exact absurd (h 0).1 (by show ¬Nat.Prime 9; norm_num)

/-- Small primes are legal parameters. -/
theorem test_params_small_primes_legal :
    Params.legal { Config.recommended with q := #v[3, 5, 7, 11, 13, 17, 19], p0 := 23 } := by
  have primes : ∀ k : Fin 7, Nat.Prime (([3, 5, 7, 11, 13, 17, 19] : List Nat)[k]) := by
    intro k; fin_cases k <;> norm_num
  refine ⟨fun k => ⟨?_, by revert k; decide⟩, by show Nat.Prime 23; norm_num, by decide⟩
  have := primes k
  fin_cases k <;> exact this

/-! ## Assembler text and pseudo-instructions (30_encoding.md R91, R93) -/

theorem test_assemble_text :
    assemble "mixup.ba q6" = some (.mixupBa 6) ∧ assemble "mixup q3" = some (.mixupAb 3) ∧
    assemble "mixup.ab q7" = none ∧ assemble "tail.q1.be" = some .tailQ1Be := by decide

theorem test_tail_le_expands :
    Pseudo.expand .tailLe =
      [.regWrite .cmd 0x0006, .wait, .regWrite .cmd 0x0007, .wait, .regWrite .cmd 0x0008, .wait,
       .regWrite .cmd 0x0009, .wait] := by decide

theorem test_hashfn_be_expands :
    Pseudo.expand (.hashfnBe 1 2 3) =
      [.regWrite .addr 1, .regWrite .len 2, .regWrite .seed 3, .regWrite .cmd 0x0011, .wait, .regRead .res] := by decide

/-! ## One step of every command -/

/-- FT-1 -/
theorem test_fetch32_le :
    nextOf (fun t => (t.w, t.reads, t.p, t.n, t.done)) (exec .fetch32Le (bufferAt 0x1000 4 [0x11, 0x22, 0x33, 0x44])) =
      some (0x44332211, [⟨0x1000, 4⟩], 0x1000, 4, true) := by decide

/-- FT-13: a misaligned word is read by single bytes. -/
theorem test_fetch32_le_misaligned :
    nextOf (fun t => (t.w, t.reads)) (exec .fetch32Le (bufferAt 0x1001 4 [0x11, 0x22, 0x33, 0x44])) =
      some (0x44332211, [⟨0x1001, 1⟩, ⟨0x1002, 1⟩, ⟨0x1003, 1⟩, ⟨0x1004, 1⟩]) := by decide

/-- FT-2 -/
theorem test_fetch32_be :
    nextOf State.w (exec .fetch32Be (bufferAt 0x1000 4 [0x11, 0x22, 0x33, 0x44])) = some 0x11223344 := by decide

/-- FT-15: the word would pass 2^64. -/
theorem test_fetch32_be_range :
    nextOf errorReport (exec .fetch32Be (bufferAt 0xFFFFFFFFFFFFFFFE 4 [])) =
      some (true, .range, 0xFFFFFFFFFFFFFFFE, .fetch32, 0) := by decide

/-- FT-3 -/
theorem test_tail32_le :
    nextOf (fun t => (t.w, t.reads)) (exec .tail32Le (bufferAt 0x1000 3 [0x11, 0x22, 0x33])) =
      some (0x00332211, [⟨0x1000, 1⟩, ⟨0x1001, 1⟩, ⟨0x1002, 1⟩]) := by decide

/-- FT-17 -/
theorem test_tail32_le_range :
    nextOf errorReport (exec .tail32Le (bufferAt 0x1000 5 [])) =
      some (true, .range, 0x1000, .tail32, 0) := by decide

/-- FT-4, FT-5: the two layouts of a big-endian tail. -/
theorem test_tail32_be_layouts :
    nextOf State.w (exec .tail32Be (bufferAt 0x1000 3 [0x11, 0x22, 0x33])) = some 0x11223300 ∧
    nextOf State.w (exec .tail32Be
      { bufferAt 0x1000 3 [0x11, 0x22, 0x33] with
        params := { Config.recommended with beTail := .rightJustified } }) = some 0x00112233 := by decide

/-- FT-9: four bytes are a full word. -/
theorem test_tail32_be_full_word :
    nextOf (fun t => (t.w, t.reads)) (exec .tail32Be (bufferAt 0x1000 4 [0x11, 0x22, 0x33, 0x44])) =
      some (0x11223344, [⟨0x1000, 4⟩]) := by decide

/-- INIT-4: only LEN[31:0] enters A and B. -/
theorem test_init :
    nextOf mixerRegs (exec .init { State.reset with addr := 0x1000, len := 0x100000005, seed := 0x0123456789ABCDEF }) =
      some (0x89B5CDEF, 0x01234562, 0, 0, 0x1000, 0x100000005) := by decide

/-- INIT-8 -/
theorem test_init_range :
    nextOf errorReport (exec .init { State.reset with addr := 0xFFFFFFFFFFFFFFFC, len := 8 }) =
      some (true, .range, 0xFFFFFFFFFFFFFFFC, .init, 0) := by decide

/-- SET-4: the rotation carries bit 31 to bit 4. -/
theorem test_bulk_setup :
    nextOf mixerRegs (exec .bulkSetup { State.reset with a := 0x12345678, b := 0x80000001 }) =
      some (0x12345678, 0x80000001, 0xEDCBA987, 0x00000030, 0, 0) := by decide

/-- The state before BLK-1 and BLK-2. -/
def beforeBlock : State :=
  { bufferAt 0x1000 17 (ascending 16) with a := 0x00220000, b := 0x00000011, c := 0xFFDDFFFF, d := 0x00000220 }

/-- BLK-1 -/
theorem test_bulk_block_le :
    nextOf mixerRegs (exec .bulkBlockLe beforeBlock) =
      some (0xF5859A68, 0x43BD077F, 0x7CDF757C, 0x19200A20, 0x1010, 1) := by decide

/-- The second word of the block is not held: BUS at its request, two reads issued, no register written (R182, R185). -/
theorem test_bulk_block_le_bus :
    nextOf errorReport (exec .bulkBlockLe { beforeBlock with mem := beforeBlock.mem.take 5 }) =
      some (true, .bus, 0x1004, .bulkBlock, 2) ∧
    nextOf (fun t => (t.a, t.c, t.p, t.n)) (exec .bulkBlockLe { beforeBlock with mem := beforeBlock.mem.take 5 }) =
      some (0x00220000, 0xFFDDFFFF, 0x1000, 17) := by decide

/-- BLK-2 -/
theorem test_bulk_block_be :
    nextOf mixerRegs (exec .bulkBlockBe beforeBlock) =
      some (0xF905993A, 0xCFA7BC87, 0xFD5EF3FD, 0x01181238, 0x1010, 1) := by decide

/-- BLK-6 -/
theorem test_bulk_block_be_range :
    nextOf errorReport (exec .bulkBlockBe { beforeBlock with n := 15 }) =
      some (true, .range, 0x1000, .bulkBlock, 0) := by decide

/-- FOLD-4 -/
theorem test_bulk_fold :
    nextOf mixerRegs (exec .bulkFold { State.reset with a := 1, b := 2, c := 3, d := 4 }) =
      some (0x723740BF, 0x12989BEE, 0x00000004, 0x00000006, 0, 0) := by decide

/-- S5: the 16-byte trace. -/
theorem test_tail_q4_le :
    nextOf mixerRegs (exec .tailQ4Le { bufferAt 0x3000 16 (ascending 16) with a := 0x00200000, b := 0x00000010 }) =
      some (0x7DEF3710, 0x0195E179, 0, 0, 0x3004, 12) := by decide

/-- TQ-2 -/
theorem test_tail_q4_le_range :
    nextOf errorReport (exec .tailQ4Le (bufferAt 0x1000 17 [])) =
      some (true, .range, 0x1000, .tailQ4, 0) := by decide

/-- S4: N = 10 is below the bucket, so nothing is read and nothing changes. -/
theorem test_tail_q4_be_below_bucket :
    nextOf (fun t => (t.a, t.b, t.p, t.n)) (exec .tailQ4Be { bufferAt 0x2000 10 [] with a := 0x00140000, b := 10 }) =
      some (0x00140000, 10, 0x2000, 10) ∧
    nextOf (fun t => (t.reads, t.done)) (exec .tailQ4Be { bufferAt 0x2000 10 [] with a := 0x00140000, b := 10 }) =
      some ([], true) := by decide

/-- S4, little-endian trace. -/
theorem test_tail_q3_le :
    nextOf mixerRegs (exec .tailQ3Le { bufferAt 0x2000 10 (ascending 10) with a := 0x00140000, b := 0x0000000A }) =
      some (0x030C0812, 0x285A430A, 0, 0, 0x2004, 6) := by decide

/-- TQ-1 -/
theorem test_tail_q3_le_below_bucket :
    nextOf (fun t => (t.n, t.reads, t.done)) (exec .tailQ3Le (bufferAt 0x2000 8 [])) = some (8, [], true) := by
  decide

/-- S4, big-endian trace. -/
theorem test_tail_q3_be :
    nextOf mixerRegs (exec .tailQ3Be { bufferAt 0x2000 10 (ascending 10) with a := 0x00140000, b := 0x0000000A }) =
      some (0x002835F8, 0xF38C4EC3, 0, 0, 0x2004, 6) := by decide

/-- S4, little-endian trace. -/
theorem test_tail_q2_le :
    nextOf mixerRegs (exec .tailQ2Le { bufferAt 0x2004 6 ((ascending 10).drop 4) with a := 0x030C0812, b := 0x285A430A }) =
      some (0xBE0DB8B8, 0x46D3B472, 0, 0, 0x2008, 2) := by decide

/-- S4, big-endian trace. -/
theorem test_tail_q2_be :
    nextOf mixerRegs (exec .tailQ2Be { bufferAt 0x2004 6 ((ascending 10).drop 4) with a := 0x002835F8, b := 0xF38C4EC3 }) =
      some (0x04DCAA26, 0x92CB6397, 0, 0, 0x2008, 2) := by decide

/-- TQ-5 -/
theorem test_tail_q1_le :
    nextOf mixerRegs (exec .tailQ1Le { bufferAt 0x1010 1 [0x10] with a := 0xB637B3BC, b := 0xF575C044 }) =
      some (0x466E2E04, 0xF59C0D78, 0, 0, 0x1011, 0) := by decide

/-- TQ-4 -/
theorem test_tail_q1_le_nothing_left :
    nextOf (fun t => (t.a, t.reads, t.done)) (exec .tailQ1Le { bufferAt 0x1010 0 [] with a := 7 }) =
      some (7, [], true) := by decide

/-- TQ-6 -/
theorem test_tail_q1_be :
    nextOf mixerRegs (exec .tailQ1Be { bufferAt 0x1010 1 [0x10] with a := 0xF39BCEC5, b := 0xB07418B5 }) =
      some (0xF676F043, 0x2895697C, 0, 0, 0x1011, 0) := by decide

/-- RMX-3, RMX-6 -/
theorem test_remix :
    nextOf (fun t => (t.a, t.b, t.res)) (exec .remix { State.reset with b := 1 }) =
      some (0x00002000, 1, 0xBB547B195908CA3D) ∧
    nextOf State.res (exec .remix { State.reset with a := 0x466E2E04, b := 0xF59C0D78 }) = some 0x19661F8C34F54332 := by
  decide

/-- The registers before the MIXUP table. -/
def beforeMixup : State := { State.reset with a := 0x12345678, b := 0x9ABCDEF0, w := 0x0BADF00D }

/-- The MIXUP table, mixup.ab, every K. -/
theorem test_mixup_ab :
    primeIndices.map (fun k => nextOf (fun t => (t.a, t.b)) (exec (.mixupAb k) beforeMixup)) =
      [some (0x8D5209BD, 0xFA31E176), some (0x1A805319, 0x1E721739), some (0x54B391CF, 0x05C8DE0A),
       some (0x0ECB324F, 0x3AD75947), some (0x0A0C20A5, 0xF2757021), some (0x635E5677, 0x1E2AD396),
       some (0x004DACD9, 0x1AA0582F)] := by decide

/-- MIXUP-3: the sum wraps at 32 bits. -/
theorem test_mixup_ab_sum_wraps :
    nextOf (fun t => (t.a, t.b)) (exec (.mixupAb 2) { State.reset with b := 0xFFFFFFFF, w := 1 }) =
      some (0, 0xFFFFFFFF) := by decide

/-- The MIXUP table, mixup.ba, every K. -/
theorem test_mixup_ba :
    primeIndices.map (fun k => nextOf (fun t => (t.a, t.b)) (exec (.mixupBa k) beforeMixup)) =
      [some (0x23588AF2, 0xA7EDA87D), some (0x29DB026D, 0x0F52A279), some (0x256D54AC, 0xFA3082BF),
       some (0x2EF45D88, 0x8CB8B23F), some (0x21F4E917, 0x37A2F795), some (0x29CE3661, 0xC74ABC97),
       some (0x292B6EFC, 0x42961D39)] := by decide

/-- HASH in phase REMIX after S5's TAIL.Q1: RES, and the end of the command. -/
theorem test_hash_le_last_step :
    nextOf (fun t => (t.a, t.res, t.busy, t.done, t.hseq, t.phase))
        (exec .hashLe
          { State.reset with
            a := 0x03EA9810, b := 0xC45A55EB, busy := true, hseq := true, phase := .remix,
            cur := ⟨1, false, 0, false⟩, len := 16, addr := 0x3000, p := 0x3010 }) =
      some (0x4957E09B, 0x841EB9F9AAB15AD5, false, true, false, .idle) := by decide

/-- HASH in phase INIT with 17 bytes goes on to BULK.SETUP, with 16 to TAIL.Q4 (S5). -/
theorem test_hash_be_first_step :
    nextOf State.phase
        (exec .hashBe { hashInput 0x3000 (ascending 17) 0 with phase := .init, hseq := true, busy := true }) =
      some .bulkSetup ∧
    nextOf State.phase
        (exec .hashBe { hashInput 0x3000 (ascending 16) 0 with phase := .init, hseq := true, busy := true }) =
      some .tailQ4 := by decide

/-! ## The hash as a function: HASH-1, HASH-3, HASH-4, HASH-5, S2, S6 -/

theorem test_hash_value_le :
    hashValue Config.recommended .little (ascending 16) 0 = 0x841EB9F9AAB15AD5 ∧
    hashValue Config.recommended .little (ascending 17) 0 = 0x19661F8C34F54332 ∧
    hashValue Config.recommended .little (ascending 48) 0 = 0xB7568BC6E115F485 ∧
    hashValue Config.recommended .little (ascending 21) 0x0123456789ABCDEF = 0x3272D0BBE1875DB7 := by decide

theorem test_hash_value_be :
    hashValue Config.recommended .big (ascending 10) 0 = 0x216540507038DC76 ∧
    hashValue Config.recommended .big (List.replicate 17 0xFF) 0xFFFFFFFFFFFFFFFF = 0x788F4726DAA596B2 ∧
    hashValue Config.recommended .big [0x61, 0x62, 0x63] 0 = 0x75078174A8003318 ∧
    hashValue { Config.recommended with beTail := .rightJustified } .big (ascending 17) 0 = 0x043403BE46D9546E := by
  decide

theorem test_hash_value_empty :
    hashValue Config.recommended .little [] 0 = 0 ∧
    hashValue Config.recommended .big [] 0x0123456789ABCDEF = 0xF296FDE33F2A8FE7 := by decide

/-! ## The register port and STATUS -/

/-- HASH-6: RANGE of INIT with ADDR_W = 32 reads as STATUS 0x20024. -/
theorem test_status_after_range_32 :
    nextOf (fun t => (t.readReg .status, t.readReg .eaddr))
        (exec .init
          { State.resetWith { Config.recommended with addrW := .w32 } with
            addr := 0xFFFFFFF0, len := 17, busy := true, phase := .init, cur := ⟨2, false, 0, false⟩ }) =
      some (0x20024, 0xFFFFFFF0) := by decide

/-- ADDR keeps ADDR_W bits (10_state.md R38). -/
theorem test_addr_write_32 :
    ((State.resetWith { Config.recommended with addrW := .w32 }).hostWrite .addr 0x123456789).readReg .addr = 0x23456789 := by
  decide

/-- A write while BUSY = 1 is dropped and sets OVR; `clr` clears it. -/
theorem test_overrun :
    (((State.reset.hostWrite .cmd 1).hostWrite .len 5).len, ((State.reset.hostWrite .cmd 1).hostWrite .len 5).ovr,
      (((State.reset.hostWrite .cmd 1).hostWrite .len 5).hostWrite .status 0xE).ovr) = (0, true, false) := by decide

/-- The first step after reset with a command placed runs it. -/
theorem test_placed_command :
    nextOf (fun t => (t.c, t.done, t.phase)) (step (State.reset.withFetchWord 16 0x0003)) =
      some (0xFFFFFFFF, true, .idle) := by decide

/-! ## Witnesses -/

/-- Reset, after the acceptance of hash.le. -/
def acceptedHash : State := State.reset.acceptCommand 1

/-- A HASH of 20 bytes in phase BULK.BLOCK. -/
def midHash : State :=
  { bufferAt 0x1000 20 (ascending 20) with
    busy := true, hseq := true, phase := .bulkBlock, cmd := 1, cur := ⟨1, false, 0, false⟩, addr := 0x1000, len := 20 }

/-- A HASH of 16 bytes that end at 2^64, in phase REMIX: P has wrapped to 0 (assumption log 25). -/
def lastStepAtTop : State :=
  { State.reset with
    busy := true, hseq := true, phase := .remix, cmd := 1, cur := ⟨1, false, 0, false⟩, addr := 0xFFFFFFFFFFFFFFF0,
    len := 16 }

theorem acceptedHash_inv : acceptedHash.Inv := by
  constructor
  case running => exact fun _ => ⟨.hashLe, by decide, rfl, by decide⟩
  case progress => exact fun _ => trivial
  all_goals decide

theorem midHash_inv : midHash.Inv := by
  constructor
  case running => exact fun _ => ⟨.hashLe, by decide, rfl, by decide⟩
  case progress => exact fun _ => ⟨⟨by decide, by decide, by decide⟩, by decide, by decide⟩
  all_goals decide

theorem lastStepAtTop_inv : lastStepAtTop.Inv := by
  constructor
  case running => exact fun _ => ⟨.hashLe, by decide, rfl, by decide⟩
  case progress => exact fun _ => ⟨⟨by decide, by decide, by decide⟩, by decide⟩
  all_goals decide

theorem witness_DecodeOfEncode : Instr.wf .hashLe = true ∧ Instr.wf (.mixupBa 6) = true := by decide

theorem witness_EncodeOfDecode : decodeCommand 0x01CD = .legal (.mixupBa 6) := by decide

theorem witness_IllegalExactlyByRule :
    decodeCommand 0x001C = .legal .tail32Be ∧ decodeCommand 0x000E = .illegal .reservedOp ∧ State.reset.busy = false ∧
    State.reset.inReset = false := by decide

theorem witness_AssemblerReadsCommandText : Instr.wf (.mixupAb 6) = true ∧ (6 : BitVec 3) ≠ 7 := by decide

theorem witness_StepRunsAcceptedCommand :
    State.reset.busy = false ∧ State.reset.inReset = false ∧ decodeCommand 0x0005 = .legal .bulkFold ∧
    State.reset.schedule = [] := by decide

theorem witness_EngineStepRunsLatchedCommand : midHash.Inv ∧ midHash.busy = true ∧ midHash.schedule = [] :=
  ⟨midHash_inv, rfl, rfl⟩

theorem witness_PlacedCommandRunsNext : 0x018D < 2 ^ 16 ∧ decodeTableWord 16 0x018D = some (.mixupBa 4) := by decide

theorem witness_CommandAcceptance :
    acceptedHash.inReset = false ∧ acceptedHash.busy = true ∧ State.reset.busy = false ∧
    decodeCommand 0x00ED = .illegal .noConstant ∧ decodeCommand 0x0011 = .legal .hashBe := by decide

theorem witness_IdleEngineDoesNothing :
    State.reset.schedule = [] ∧ State.reset.busy = false ∧ ({ State.reset with busy := true } : State).phase = .idle := by
  decide

theorem witness_StatusReadAndWrite : acceptedHash.inReset = false := by decide

theorem witness_WriteWhileBusyIsDropped :
    acceptedHash.busy = true ∧ acceptedHash.inReset = false ∧ Reg.eaddr ≠ .status ∧ Reg.rsv78 ≠ .status := by decide

theorem witness_HostReadReturnsRegister : acceptedHash.inReset = false ∧ acceptedHash.busy = true := by decide

theorem witness_HostWriteStoresRegister : State.reset.inReset = false ∧ State.reset.busy = false := by decide

theorem witness_DoneIrqLevel :
    acceptedHash.busy = true ∧
    nextOf State.busy (exec .init acceptedHash) = some false ∧
    nextOf State.busy (exec .hashLe lastStepAtTop) = some false ∧
    State.reset.busy = false ∧ State.reset.inReset = false ∧ decodeCommand 0x0001 = .legal .hashLe ∧
    decodeCommand 0x0000 = .illegal .reservedOp := by decide

theorem witness_RunningCommandIsUndisturbed :
    midHash.busy = true ∧ midHash.inReset = false ∧
    (nextOf State.ovr (State.takeTurn (.regWrite .len 1) midHash) = some true) ∧
    (nextOf State.held (State.takeTurn (.memWrite 0x1000 9) midHash) = some [(0x1000, 0)]) := by decide

theorem witness_ResetFromAnyState : decodeCommand 0x0001 = .legal .hashLe ∧ midHash.busy = true := by decide

theorem witness_RotateLeft : 32 % 32 = 0 ∧ 31 % 32 ≠ 0 := by decide

theorem witness_TailIsZeroPaddedWord :
    1 ≤ ([9] : List Byte).length ∧ ([9, 8, 7, 6] : List Byte).length ≤ 4 ∧ Config.recommended.beTail = .padLow ∧
    ({ Config.recommended with beTail := .rightJustified } : Params).beTail = .rightJustified := by decide

/-- The top word of a 64-bit address space. -/
def topWord : Nat := 0xFFFFFFFFFFFFFFFC

/-- The memory delivers what `bufferAt` stores: here the last four bytes of the address space, whatever N is. -/
theorem topWord_delivers (n : Nat) : (bufferAt topWord n [1, 2, 3, 4]).delivers topWord [1, 2, 3, 4] := by
  refine ⟨?_, ?_, ?_⟩
  · show Memory.holds (bufferAt topWord 0 [1, 2, 3, 4]).mem topWord [1, 2, 3, 4]
    unfold Memory.holds; decide
  · intro q hq; cases hq
  · intro y hy; cases hy

theorem block_delivers : (bufferAt 0x1001 16 (ascending 16)).delivers 0x1001 (ascending 16) := by
  refine ⟨?_, ?_, ?_⟩
  · unfold Memory.holds; decide
  · intro q hq; cases hq
  · intro y hy; cases hy

/-- The request for the word at 0x1000 fails where memory lists nothing. -/
theorem empty_failsAt (n : Nat) :
    (bufferAt 0x1000 n []).failsAt (wordRequests Config.recommended 0x1000) ⟨0x1000, 4⟩ [⟨0x1000, 4⟩] :=
  ⟨[], [], by decide, rfl, rfl, by intro q hq; cases hq⟩

/-- The second byte of a tail fails where memory lists only the first. -/
theorem second_byte_failsAt :
    (bufferAt 0x1000 2 [7]).failsAt (tailRequests Config.recommended 0x1000 2) ⟨0x1001, 1⟩ [⟨0x1000, 1⟩, ⟨0x1001, 1⟩] :=
  ⟨[⟨0x1000, 1⟩], [], by decide, rfl, by decide, by unfold State.answers; decide⟩

theorem witness_InitResult :
    let s := { State.reset with addr := 0xFFFFFFFFFFFFFFFC, len := 4 }
    let u := { s with len := 5 }
    (s.addr.toNat < s.params.space ∧ s.addr.toNat + s.len.toNat ≤ s.params.space) ∧
    (u.addr.toNat < u.params.space ∧ u.addr.toNat + u.len.toNat > u.params.space) := by decide

theorem witness_BulkBlockResult :
    let s := bufferAt 0x1001 16 (ascending 16)
    let u := bufferAt 0x1000 16 []
    (s.p.toNat < s.params.space ∧ 16 ≤ s.n.toNat ∧ s.p.toNat + 16 ≤ s.params.space ∧ (ascending 16).length = 16 ∧
      s.delivers s.p.toNat (ascending 16)) ∧
    (bufferAt 0x1000 15 []).n.toNat < 16 ∧ (bufferAt 0xFFFFFFFFFFFFFFF1 16 []).p.toNat + 16 > Config.recommended.space ∧
    (16 ≤ u.n.toNat ∧ u.p.toNat + 16 ≤ u.params.space ∧
      u.failsAt (blockRequests u.params u.p.toNat) ⟨0x1000, 4⟩ [⟨0x1000, 4⟩]) :=
  ⟨⟨by decide, by decide, by decide, by decide, block_delivers⟩, by decide, by decide, by decide, by decide,
    [], [⟨0x1004, 4⟩, ⟨0x1008, 4⟩, ⟨0x100C, 4⟩], by decide, rfl, rfl, by intro q hq; cases hq⟩

theorem witness_MixupResult : (6 : BitVec 3) ≠ 7 ∧ (0 : BitVec 3) ≠ 7 ∧ (6 : BitVec 3).toNat < 7 := by decide

/-- TAIL.Q4 at the low end of its bucket at the top of the address space, at the high end with a failing read, and one above
and one below the bucket. -/
theorem witness_TailQ4Result :
    let s := bufferAt topWord 13 [1, 2, 3, 4]
    let u := bufferAt 0x1000 16 []
    (s.p.toNat < s.params.space ∧ 13 ≤ s.n.toNat ∧ s.n.toNat ≤ 16 ∧ s.p.toNat + 4 ≤ s.params.space ∧
      ([1, 2, 3, 4] : List Byte).length = 4 ∧ s.delivers s.p.toNat [1, 2, 3, 4]) ∧
    (bufferAt 0x1000 17 []).n.toNat > 16 ∧ (bufferAt 0x1000 12 []).n.toNat ≤ 12 ∧
    (bufferAt (topWord + 1) 13 []).p.toNat + 4 > Config.recommended.space ∧
    (u.p.toNat < u.params.space ∧ 13 ≤ u.n.toNat ∧ u.n.toNat ≤ 16 ∧ u.p.toNat + 4 ≤ u.params.space ∧
      u.failsAt (wordRequests u.params u.p.toNat) ⟨0x1000, 4⟩ [⟨0x1000, 4⟩]) :=
  ⟨⟨by decide, by decide, by decide, by decide, rfl, topWord_delivers 13⟩, by decide, by decide, by decide,
    by decide, by decide, by decide, by decide, empty_failsAt 16⟩

/-- TAIL.Q3 at the low end of its bucket at the top of the address space, at the high end with a failing read, and one above
and one below the bucket. -/
theorem witness_TailQ3Result :
    let s := bufferAt topWord 9 [1, 2, 3, 4]
    let u := bufferAt 0x1000 12 []
    (s.p.toNat < s.params.space ∧ 9 ≤ s.n.toNat ∧ s.n.toNat ≤ 12 ∧ s.p.toNat + 4 ≤ s.params.space ∧
      ([1, 2, 3, 4] : List Byte).length = 4 ∧ s.delivers s.p.toNat [1, 2, 3, 4]) ∧
    (bufferAt 0x1000 13 []).n.toNat > 12 ∧ (bufferAt 0x1000 8 []).n.toNat ≤ 8 ∧
    (bufferAt (topWord + 1) 9 []).p.toNat + 4 > Config.recommended.space ∧
    (u.p.toNat < u.params.space ∧ 9 ≤ u.n.toNat ∧ u.n.toNat ≤ 12 ∧ u.p.toNat + 4 ≤ u.params.space ∧
      u.failsAt (wordRequests u.params u.p.toNat) ⟨0x1000, 4⟩ [⟨0x1000, 4⟩]) :=
  ⟨⟨by decide, by decide, by decide, by decide, rfl, topWord_delivers 9⟩, by decide, by decide, by decide,
    by decide, by decide, by decide, by decide, empty_failsAt 12⟩

/-- TAIL.Q2 at the low end of its bucket at the top of the address space, at the high end with a failing read, and one above
and one below the bucket. -/
theorem witness_TailQ2Result :
    let s := bufferAt topWord 5 [1, 2, 3, 4]
    let u := bufferAt 0x1000 8 []
    (s.p.toNat < s.params.space ∧ 5 ≤ s.n.toNat ∧ s.n.toNat ≤ 8 ∧ s.p.toNat + 4 ≤ s.params.space ∧
      ([1, 2, 3, 4] : List Byte).length = 4 ∧ s.delivers s.p.toNat [1, 2, 3, 4]) ∧
    (bufferAt 0x1000 9 []).n.toNat > 8 ∧ (bufferAt 0x1000 4 []).n.toNat ≤ 4 ∧
    (bufferAt (topWord + 1) 5 []).p.toNat + 4 > Config.recommended.space ∧
    (u.p.toNat < u.params.space ∧ 5 ≤ u.n.toNat ∧ u.n.toNat ≤ 8 ∧ u.p.toNat + 4 ≤ u.params.space ∧
      u.failsAt (wordRequests u.params u.p.toNat) ⟨0x1000, 4⟩ [⟨0x1000, 4⟩]) :=
  ⟨⟨by decide, by decide, by decide, by decide, rfl, topWord_delivers 5⟩, by decide, by decide, by decide,
    by decide, by decide, by decide, by decide, empty_failsAt 8⟩

/-- TAIL.Q1 at N = 4 at the top of the address space, at N = 2 failing at the second byte, at N = 5 and at N = 0. -/
theorem witness_TailQ1Result :
    let s := bufferAt topWord 4 [1, 2, 3, 4]
    let u := bufferAt 0x1000 2 [7]
    (s.p.toNat < s.params.space ∧ 1 ≤ s.n.toNat ∧ s.n.toNat ≤ 4 ∧ s.p.toNat + s.n.toNat ≤ s.params.space ∧
      ([1, 2, 3, 4] : List Byte).length = s.n.toNat ∧ s.delivers s.p.toNat [1, 2, 3, 4]) ∧
    (bufferAt 0x1000 5 []).n.toNat > 4 ∧ (bufferAt 0x1000 0 []).n.toNat = 0 ∧
    (bufferAt (topWord + 1) 4 []).p.toNat + 4 > Config.recommended.space ∧
    (u.p.toNat < u.params.space ∧ 1 ≤ u.n.toNat ∧ u.n.toNat ≤ 4 ∧ u.p.toNat + u.n.toNat ≤ u.params.space ∧
      u.failsAt (tailRequests u.params u.p.toNat u.n.toNat) ⟨0x1001, 1⟩ [⟨0x1000, 1⟩, ⟨0x1001, 1⟩]) :=
  ⟨⟨by decide, by decide, by decide, by decide, rfl, topWord_delivers 4⟩, by decide, by decide, by decide,
    by decide, by decide, by decide, by decide, second_byte_failsAt⟩

/-- TAIL32 at N = 4 at the top of the address space, at N = 2 failing at the second byte, at N = 5 and at N = 0. -/
theorem witness_TailReadResult :
    let s := bufferAt topWord 4 [1, 2, 3, 4]
    let u := bufferAt 0x1000 2 [7]
    (s.p.toNat < s.params.space ∧ 1 ≤ s.n.toNat ∧ s.n.toNat ≤ 4 ∧ s.p.toNat + s.n.toNat ≤ s.params.space ∧
      ([1, 2, 3, 4] : List Byte).length = s.n.toNat ∧ s.delivers s.p.toNat [1, 2, 3, 4]) ∧
    (bufferAt 0x1000 5 []).n.toNat > 4 ∧ (bufferAt 0x1000 0 []).n.toNat = 0 ∧
    (bufferAt (topWord + 1) 4 []).p.toNat + 4 > Config.recommended.space ∧
    (u.p.toNat < u.params.space ∧ 1 ≤ u.n.toNat ∧ u.n.toNat ≤ 4 ∧ u.p.toNat + u.n.toNat ≤ u.params.space ∧
      u.failsAt (tailRequests u.params u.p.toNat u.n.toNat) ⟨0x1001, 1⟩ [⟨0x1000, 1⟩, ⟨0x1001, 1⟩]) :=
  ⟨⟨by decide, by decide, by decide, by decide, rfl, topWord_delivers 4⟩, by decide, by decide, by decide,
    by decide, by decide, by decide, by decide, second_byte_failsAt⟩

theorem witness_FetchWordResult :
    let s := bufferAt topWord 4 [1, 2, 3, 4]
    let u := bufferAt 0x1000 4 []
    (s.p.toNat < s.params.space ∧ 4 ≤ s.n.toNat ∧ s.p.toNat + 4 ≤ s.params.space ∧ s.delivers s.p.toNat [1, 2, 3, 4]) ∧
    (bufferAt 0x1000 3 []).n.toNat < 4 ∧ (bufferAt (topWord + 1) 4 []).p.toNat + 4 > Config.recommended.space ∧
    (u.p.toNat < u.params.space ∧ 4 ≤ u.n.toNat ∧ u.p.toNat + 4 ≤ u.params.space ∧
      u.failsAt (wordRequests u.params u.p.toNat) ⟨0x1000, 4⟩ [⟨0x1000, 4⟩]) :=
  ⟨⟨by decide, by decide, by decide, topWord_delivers 4⟩, by decide, by decide, by decide, by decide, by decide,
    empty_failsAt 4⟩

theorem witness_HashStepCompletes :
    microCommand .little midHash.phase = some .bulkBlockLe ∧ ¬rangeFails .bulkBlockLe midHash ∧
    midHash.answers (requestsOf .bulkBlockLe midHash) ∧ microCommand .big lastStepAtTop.phase = some .remix := by
  refine ⟨rfl, ?_, ?_, rfl⟩
  · simp only [rangeFails]; decide
  · unfold State.answers; decide

theorem witness_HashStepDoesItsMicroOperation :
    microCommand .little midHash.phase = some .bulkBlockLe ∧ midHash.err = false ∧
    nextOf State.err (exec .bulkBlockLe midHash) = some false ∧
    nextOf State.err (exec .bulkBlockLe { midHash with mem := [] }) = some true := by decide

theorem witness_RangeErrors :
    isHash .fetch32Be = false ∧ (bufferAt 0x1000 3 []).p.toNat < (bufferAt 0x1000 3 []).params.space ∧
    (bufferAt 0x1000 3 []).addr.toNat < (bufferAt 0x1000 3 []).params.space ∧ rangeFails .fetch32Be (bufferAt 0x1000 3 []) ∧
    ¬rangeFails .fetch32Be (bufferAt 0x1000 4 []) ∧ (bufferAt 0x1000 4 []).ecode = .none ∧
    nextOf State.ecode (exec .fetch32Be (bufferAt 0x1000 4 [])) = some .bus := by
  refine ⟨rfl, by decide, by decide, .inl (by decide), ?_, rfl, by decide⟩
  simp only [rangeFails]; decide

theorem witness_BusErrors :
    isHash .fetch32Le = false ∧ ¬rangeFails .fetch32Le (bufferAt 0x1000 4 []) ∧
    (bufferAt 0x1000 4 []).failsAt (requestsOf .fetch32Le (bufferAt 0x1000 4 [])) ⟨0x1000, 4⟩ [⟨0x1000, 4⟩] := by
  refine ⟨rfl, ?_, empty_failsAt 4⟩
  simp only [rangeFails]; decide

theorem witness_CommandsComplete :
    Instr.wf .tail32Be = true ∧ isHash .tail32Be = false ∧ ¬rangeFails .tail32Be (bufferAt 0x1000 2 [7, 8]) ∧
    (bufferAt 0x1000 2 [7, 8]).answers (requestsOf .tail32Be (bufferAt 0x1000 2 [7, 8])) := by
  refine ⟨rfl, rfl, ?_, ?_⟩
  · simp only [rangeFails]; decide
  · unfold State.answers; decide

theorem witness_CommandEndsOneWay :
    lastStepAtTop.Inv ∧ lastStepAtTop.busy = true ∧ lastStepAtTop.schedule = [] ∧
    nextOf State.busy (step lastStepAtTop) = some false := ⟨lastStepAtTop_inv, rfl, rfl, by decide⟩

theorem witness_StopsByName : State.reset.phase ∈ [Phase.idle, .fetch32, .tail32, .mixup] := by decide

theorem witness_EngineNeverWritesInputsOrMemory : nextOf State.done (exec .bulkBlockLe beforeBlock) = some true := by
  decide

theorem witness_RegisterFrames :
    nextOf State.done (exec .init State.reset) = some true ∧
    Instr.init ∉ [Instr.fetch32Le, .fetch32Be, .tail32Le, .tail32Be] ∧ Instr.init ∉ [Instr.remix, .hashLe, .hashBe] ∧
    nextOf State.done (exec .bulkSetup State.reset) = some true ∧
    Instr.bulkSetup ∈ [Instr.bulkSetup, .fetch32Le, .fetch32Be, .tail32Le, .tail32Be] := by decide

theorem witness_ErrorsWriteNoDataRegister :
    beforeBlock.err = false ∧ nextOf State.err (exec .bulkBlockLe { beforeBlock with mem := [] }) = some true := by
  decide

theorem witness_ParametersNeverChange :
    nextOf State.params (step { State.reset with schedule := [.assertReset] }) = some Config.recommended ∧
    nextOf State.done (step (State.reset.withFetchWord 16 0x0002)) = some true := by decide

theorem witness_ReadsStayInsideBuffer :
    nextOf State.reads (exec .tailQ1Be (bufferAt 0xFFFFFFFFFFFFFFFE 2 [1, 2])) =
      some [⟨0xFFFFFFFFFFFFFFFE, 1⟩, ⟨0xFFFFFFFFFFFFFFFF, 1⟩] := by decide

theorem witness_HashReadsStayInsideItsBuffer :
    midHash.Inv ∧ midHash.hseq = true ∧
    nextOf State.reads (exec (hashCommand .little) midHash) =
      some [⟨0x1000, 4⟩, ⟨0x1004, 4⟩, ⟨0x1008, 4⟩, ⟨0x100C, 4⟩] := ⟨midHash_inv, rfl, by decide⟩

/-- The same four bytes at the top of the address space and at an odd address. -/
theorem witness_FetchIndependentOfAlignment :
    let s := bufferAt topWord 4 [1, 2, 3, 4]
    let u := bufferAt 0x1001 4 [1, 2, 3, 4]
    ([1, 2, 3, 4] : List Byte).length = 4 ∧ 4 ≤ s.n.toNat ∧ s.p.toNat + 4 ≤ s.params.space ∧
    s.delivers s.p.toNat [1, 2, 3, 4] ∧ 4 ≤ u.n.toNat ∧ u.p.toNat + 4 ≤ u.params.space ∧
    u.delivers u.p.toNat [1, 2, 3, 4] := by
  refine ⟨rfl, by decide, by decide, topWord_delivers 4, by decide, by decide, ?_, ?_, ?_⟩
  · unfold Memory.holds; decide
  · intro q hq; cases hq
  · intro y hy; cases hy

theorem witness_ByteReadsReturnHeldValues :
    (∀ y ∈ midHash.held, y.1 ≠ 0x1003) ∧ midHash.byteAt 0x1003 = some 3 ∧ midHash.busy = true ∧
    Memory.read midHash.mem 0x1003 = some 3 ∧ State.reset.busy = false ∧ decodeCommand 0x0001 = .legal .hashLe := by
  decide

theorem witness_HostStoresByte :
    0xFFFFFFFFFFFFFFFF < State.reset.params.space ∧ State.reset.params.space ≤ 2 ^ 64 ∧ Memory.wf midHash.mem = true := by
  decide

theorem witness_StepKeepsInvariant :
    midHash.Inv ∧ nextOf State.phase (step midHash) = some .bulkFold ∧ lastStepAtTop.Inv ∧
    nextOf State.phase (step lastStepAtTop) = some .idle :=
  ⟨midHash_inv, by decide, lastStepAtTop_inv, by decide⟩

theorem witness_InvariantStatesNeverStop :
    acceptedHash.Inv ∧ nextOf State.phase (step acceptedHash) = some .tailQ4 := ⟨acceptedHash_inv, by decide⟩

theorem witness_HashErrorsAreInitRangeOrBus :
    midHash.Inv ∧ midHash.hseq = true ∧ midHash.phase ≠ .init ∧ acceptedHash.Inv ∧ acceptedHash.hseq = true ∧
    acceptedHash.phase = .init ∧ nextOf State.phase (exec (hashCommand .little) midHash) = some .bulkFold :=
  ⟨midHash_inv, rfl, by decide, acceptedHash_inv, rfl, rfl, by decide⟩

/-- The hypotheses of `HashComputesTheHash`, `HashReadsEachByteOnce`, `HashBulkPhase`, `HashDependsOnItsInputsOnly` and
`SingleSteppedHashAgrees`: 17 bytes at an odd address. -/
theorem witness_hash_of_17 :
    let s := hashInput 0x1001 (ascending 17) 5
    s.busy = false ∧ s.inReset = false ∧ s.schedule = [] ∧ s.addr.toNat < s.params.space ∧
    s.addr.toNat + s.len.toNat ≤ s.params.space ∧ (ascending 17).length = s.len.toNat ∧
    Memory.holds s.mem s.addr.toNat (ascending 17) ∧ s.answersAll s.addr.toNat (ascending 17).length ∧ 16 < s.len.toNat := by
  refine ⟨rfl, rfl, rfl, by decide, by decide, by decide, ?_, ?_, by decide⟩
  · unfold Memory.holds; decide
  · unfold State.answersAll; decide

/-- The same for 16 bytes that end at 2^64. -/
theorem witness_hash_of_16_at_top :
    let s := hashInput 0xFFFFFFFFFFFFFFF0 (ascending 16) 5
    s.busy = false ∧ s.inReset = false ∧ s.schedule = [] ∧ s.addr.toNat < s.params.space ∧
    s.addr.toNat + s.len.toNat ≤ s.params.space ∧ (ascending 16).length = s.len.toNat ∧
    Memory.holds s.mem s.addr.toNat (ascending 16) ∧ s.answersAll s.addr.toNat (ascending 16).length ∧ s.len.toNat ≤ 16 := by
  refine ⟨rfl, rfl, rfl, by decide, by decide, by decide, ?_, ?_, by decide⟩
  · unfold Memory.holds; decide
  · unfold State.answersAll; decide

/-- The two states of `HashDependsOnItsInputsOnly`: the second has ADDR_W = 32, UNALIGNED_OK and another alignment. -/
theorem witness_HashDependsOnItsInputsOnly :
    let s := hashInput 0x1001 (ascending 17) 5
    let u := { hashInput 0x2002 (ascending 17) 5 with
      params := { Config.recommended with addrW := .w32, unalignedOk := true }, a := 9 }
    u.busy = false ∧ u.inReset = false ∧ u.schedule = [] ∧ u.addr.toNat < u.params.space ∧
    u.addr.toNat + u.len.toNat ≤ u.params.space ∧ u.len = s.len ∧ u.seed = s.seed ∧
    Memory.holds u.mem u.addr.toNat (ascending 17) ∧ u.answersAll u.addr.toNat (ascending 17).length ∧
    u.params.q = s.params.q ∧ u.params.p0 = s.params.p0 ∧ u.params.s = s.params.s ∧ u.params.beTail = s.params.beTail := by
  refine ⟨rfl, rfl, rfl, by decide, by decide, rfl, rfl, ?_, ?_, rfl, rfl, rfl, rfl⟩
  · unfold Memory.holds; decide
  · unfold State.answersAll; decide

theorem witness_HashOfNothingReadsNothing :
    State.reset.busy = false ∧ State.reset.inReset = false ∧ State.reset.schedule = [] ∧ State.reset.len = 0 ∧
    State.reset.addr.toNat < State.reset.params.space ∧ State.reset.seed = 0 := by decide

end Sys2Proof.Tests
end

namespace Sys2Proof.Machine

/-! ## Words and parameters -/

theorem rotl32_eq_rotateLeft (x : Word) (r : Nat) : rotl32 x r = x.rotateLeft r := by
  rw [rotl32, BitVec.rotateLeft, BitVec.rotateLeftAux]
  split
  · next h => rw [h, BitVec.ushiftRight_eq_zero (Nat.le_refl 32)]; simp
  · rfl

/-- The two parts of a rotation do not overlap, so their disjunction is their sum. -/
theorem rotl32_toNat (x : Word) (r : Nat) (h : r % 32 ≠ 0) :
    (rotl32 x r).toNat = x.toNat * 2 ^ (r % 32) % 2 ^ 32 + x.toNat / 2 ^ (32 - r % 32) := by
  have hr : r % 32 < 32 := Nat.mod_lt _ (by decide)
  have hsplit : 2 ^ 32 = 2 ^ (32 - r % 32) * 2 ^ (r % 32) := by rw [← pow_add]; congr 1; omega
  have hright : x.toNat / 2 ^ (32 - r % 32) < 2 ^ (r % 32) :=
    Nat.div_lt_of_lt_mul (by rw [← hsplit]; exact x.isLt)
  rw [rotl32, if_neg h, BitVec.toNat_or, BitVec.toNat_shiftLeft, BitVec.toNat_ushiftRight, Nat.shiftRight_eq_div_pow,
    Nat.shiftLeft_eq, hsplit, Nat.mul_mod_mul_right, ← Nat.shiftLeft_eq,
    ← Nat.shiftLeft_add_eq_or_of_lt hright]

/-- Settles O19: the library's rotation is the same disjunction, and its parts do not overlap. -/
theorem rotateLeft : Obligations.RotateLeft := fun x r =>
  ⟨fun h => by rw [rotl32, if_pos h], rotl32_toNat x r, rotl32_eq_rotateLeft x r⟩

/-- The product of two 32-bit words needs no more than 64 bits. -/
theorem mul32x64_toNat (x y : Word) : (mul32x64 x y).toNat = x.toNat * y.toNat := by
  have hx : (x.setWidth 64).toNat = x.toNat := BitVec.toNat_setWidth_of_le (by decide)
  have hy : (y.setWidth 64).toNat = y.toNat := BitVec.toNat_setWidth_of_le (by decide)
  have hlt : x.toNat * y.toNat < 2 ^ 64 :=
    calc x.toNat * y.toNat < 2 ^ 32 * 2 ^ 32 := Nat.mul_lt_mul'' x.isLt y.isLt
      _ = 2 ^ 64 := by decide
  rw [mul32x64, BitVec.toNat_mul_of_lt (by rwa [hx, hy]), hx, hy]

theorem lo32_eq_ofNat (l : Dword) : lo32 l = BitVec.ofNat 32 l.toNat := by
  simp [lo32, BitVec.extractLsb']

theorem hi32_toNat (l : Dword) : (hi32 l).toNat = l.toNat / 2 ^ 32 := by
  have h := l.isLt
  rw [hi32, BitVec.extractLsb'_toNat, Nat.shiftRight_eq_div_pow, Nat.mod_eq_of_lt (by omega)]

/-- Settles O20: the exact product of the wrapped sum y + v and q, its low half into x and its high half onto y. -/
theorem mixupStep : Obligations.MixupStep := by
  intro x y v q
  have hl : (mul32x64 (y + v) q).toNat = (y.toNat + v.toNat) % 2 ^ 32 * q.toNat := by
    rw [mul32x64_toNat, BitVec.toNat_add]
  refine ⟨mul32x64_toNat x y, ?_, ?_⟩
  · rw [mixup32, lo32_eq_ofNat, hl]
  · rw [mixup32, BitVec.toNat_add, hi32_toNat, hl]

/-- A command's step, whether it completes or ends with an error, keeps the parameters. -/
theorem exec_params (i : Instr) (s t : State) (h : exec i s = .next t) : t.params = s.params := by
  have keeps (j : Instr) (bs : List Byte) : (effect j bs s).params = s.params := (effect_frame s j bs).1
  rcases isHash_cases i with hh | ⟨e, rfl⟩
  · obtain ⟨-, ⟨-, rfl⟩ | ⟨-, x, q, -, rfl⟩ | ⟨-, bs, -, rfl⟩⟩ := exec_cases i s t hh h
    · rfl
    · rfl
    · exact keeps i bs
  · obtain ⟨j, -, ⟨-, rfl⟩ | ⟨-, x, q, -, rfl⟩ | ⟨-, bs, -, rfl⟩⟩ := hash_cases e s t h
    · rfl
    · rfl
    · rw [hashAdvance_eq]
      split
      · exact keeps j bs
      · exact keeps j bs

theorem engineTurn_params (s t : State) (h : s.engineTurn = .next t) : t.params = s.params := by
  unfold State.engineTurn at h
  split at h
  · split at h
    · exact exec_params _ s t h
    · cases h; rfl
  · cases h; rfl

theorem acceptCommand_params (s : State) (v : Dword) : (s.acceptCommand v).params = s.params := by
  unfold State.acceptCommand
  split <;> rfl

theorem writeStatus_params (s : State) (v : Dword) : (s.writeStatus v).params = s.params := by
  simp only [State.writeStatus]
  split <;> split <;> split <;> rfl

theorem hostWrite_params (s : State) (r : Reg) (v : Dword) : (s.hostWrite r v).params = s.params := by
  unfold State.hostWrite
  split
  · rfl
  · split
    · rfl
    · cases r
      case cmd => exact acceptCommand_params s v
      case status => exact writeStatus_params s v
      all_goals rfl

theorem poll_params (s : State) : s.poll.params = s.params := by
  simp only [State.poll]
  split <;> rfl

theorem takeTurn_params (ev : Event) (s t : State) (h : s.takeTurn ev = .next t) : t.params = s.params := by
  cases ev with
  | engine => exact engineTurn_params s t h
  | regWrite r v => cases h; exact hostWrite_params s r v
  | wait => cases h; exact poll_params s
  | memWrite x v =>
    simp only [State.takeTurn] at h
    split at h
    · cases h; rfl
    · cases h
  | regRead r => cases h; rfl
  | busFail q => cases h; rfl
  | busHeal q => cases h; rfl
  | assertReset => cases h; rfl
  | releaseReset => cases h; rfl

/-- Settles O45, by the cases of the turn that the step takes. -/
theorem parametersNeverChange : Obligations.ParametersNeverChange := by
  intro s t h
  unfold step at h
  split at h
  · exact engineTurn_params s t h
  · next ev es _ => exact takeTurn_params ev { s with schedule := es } t h

end Sys2Proof.Machine

/-!
A run of HASH, followed from acceptance to its end. `HashAt` ties a running state to a `TailState`: the accumulator and the
bytes not yet consumed. Each micro-operation of the sequence is one lemma that moves the state and the `TailState` together.
-/

namespace Sys2Proof.Machine

/-! ## Runs of a busy device -/

/-- `k` steps lead from `s` to `t`, and BUSY = 1 in every state before `t`. -/
def busyRun (k : Nat) (s t : State) : Prop := runsTo k s t ∧ ∀ j, j < k → ∃ u, runsTo j s u ∧ u.busy = true

theorem busyRun_zero (s : State) : busyRun 0 s s := ⟨rfl, fun j hj => absurd hj (Nat.not_lt_zero j)⟩

theorem busyRun_one (s t : State) (hb : s.busy = true) (h : step s = .next t) : busyRun 1 s t :=
  ⟨(runsTo_succ 0 s t t h).2 rfl, fun j hj => ⟨s, by rw [Nat.lt_one_iff.1 hj]; rfl, hb⟩⟩

theorem busyRun.trans {j k : Nat} {s t u : State} (h : busyRun j s t) (g : busyRun k t u) : busyRun (j + k) s u := by
  refine ⟨runsTo_trans j k s t u h.1 g.1, fun i hi => ?_⟩
  by_cases hij : i < j
  · exact h.2 i hij
  · obtain ⟨v, hv, hb⟩ := g.2 (i - j) (by omega)
    refine ⟨v, ?_, hb⟩
    have := runsTo_trans j (i - j) s t v h.1 hv
    rwa [Nat.add_sub_cancel' (by omega)] at this

/-! ## Words of a longer list of bytes -/

/-- A word is made of the first four bytes. -/
theorem assembleWord_take (e : ByteOrder) (bs : List Byte) (k : Nat) (hk : 4 ≤ k) :
    assembleWord e (bs.take k) = assembleWord e bs := by
  have h (i : Nat) (hi : i < 4) : byteOf (bs.take k) i = byteOf bs i := by
    rw [byteOf, byteOf, List.getD_eq_getElem?_getD, List.getD_eq_getElem?_getD, List.getElem?_take_of_lt (by omega)]
  cases e <;> simp only [assembleWord, h 0 (by decide), h 1 (by decide), h 2 (by decide), h 3 (by decide)]

/-- A block is made of the first sixteen bytes. -/
theorem blockOfBytes_take (p : Params) (e : ByteOrder) (bs : List Byte) (v : Acc) :
    blockOfBytes p e (bs.take 16) v = blockOfBytes p e bs v := by
  simp only [blockOfBytes, List.drop_take, assembleWord_take e _ 16 (by decide), assembleWord_take e _ (16 - 4) (by decide),
    assembleWord_take e _ (16 - 8) (by decide), assembleWord_take e _ (16 - 12) (by decide)]

/-! ## What a running HASH leaves as it is -/

/-- `s` with what the micro-operations of HASH write taken from `w`: the phase, the accumulators, P, N and RES
(10_state.md R22 to R27), the staging buffer and the model's account of the reads. -/
def State.withWorkOf (s w : State) : State :=
  { s with
    phase := w.phase, a := w.a, b := w.b, c := w.c, d := w.d, p := w.p, n := w.n, res := w.res, alignbuf := w.alignbuf,
    freeIx := w.freeIx, reads := w.reads }

/-- `t` differs from `s` only in what the micro-operations of HASH write. -/
def State.sameFrame (s t : State) : Prop := t = s.withWorkOf t

theorem State.sameFrame.trans {s t u : State} (h : s.sameFrame t) (g : t.sameFrame u) : s.sameFrame u :=
  calc u = t.withWorkOf u := g
    _ = (s.withWorkOf t).withWorkOf u := congrArg (State.withWorkOf · u) h
    _ = s.withWorkOf u := rfl

section Frame
variable {s t : State} (h : s.sameFrame t)
include h

/-- A field that the micro-operations of HASH do not write. -/
theorem State.sameFrame.field_eq {α : Type} (f : State → α) (hf : f (s.withWorkOf t) = f s) : f t = f s :=
  calc f t = f (s.withWorkOf t) := congrArg f h
    _ = f s := hf

theorem State.sameFrame.params : t.params = s.params := h.field_eq State.params rfl
theorem State.sameFrame.busy : t.busy = s.busy := h.field_eq State.busy rfl
theorem State.sameFrame.hseq : t.hseq = s.hseq := h.field_eq State.hseq rfl
theorem State.sameFrame.inReset : t.inReset = s.inReset := h.field_eq State.inReset rfl
theorem State.sameFrame.schedule : t.schedule = s.schedule := h.field_eq State.schedule rfl
theorem State.sameFrame.cur : t.cur = s.cur := h.field_eq State.cur rfl
theorem State.sameFrame.addr : t.addr = s.addr := h.field_eq State.addr rfl
theorem State.sameFrame.len : t.len = s.len := h.field_eq State.len rfl
theorem State.sameFrame.seed : t.seed = s.seed := h.field_eq State.seed rfl
theorem State.sameFrame.w : t.w = s.w := h.field_eq State.w rfl
theorem State.sameFrame.cmd : t.cmd = s.cmd := h.field_eq State.cmd rfl
theorem State.sameFrame.err : t.err = s.err := h.field_eq State.err rfl
theorem State.sameFrame.ovr : t.ovr = s.ovr := h.field_eq State.ovr rfl
theorem State.sameFrame.eaddr : t.eaddr = s.eaddr := h.field_eq State.eaddr rfl
theorem State.sameFrame.mem : t.mem = s.mem := h.field_eq State.mem rfl

theorem State.sameFrame.delivers {x : Nat} {bs : List Byte} (hd : s.delivers x bs) : t.delivers x bs := by
  have hm : t.mem = s.mem := h.mem
  have hf : t.failing = s.failing := h.field_eq State.failing rfl
  have hh : t.held = s.held := h.field_eq State.held rfl
  unfold State.delivers State.answersAll at hd ⊢
  rwa [hm, hf, hh]

end Frame

theorem State.delivers_nil (s : State) (x : Nat) : s.delivers x [] := by
  refine ⟨fun i hi => absurd hi (Nat.not_lt_zero i), fun q _ hq => ?_, fun y _ hy => ?_⟩
  · exact absurd (hq.1.trans_lt hq.2) (Nat.lt_irrefl x)
  · exact absurd (hy.1.trans_lt hy.2) (Nat.lt_irrefl x)

/-! ## The engine inside HASH -/

/-- HASH of the variant `e` runs, out of reset, and host and memory do nothing. -/
structure State.RunsHash (e : ByteOrder) (s : State) : Prop where
  busy : s.busy = true
  hseq : s.hseq = true
  live : s.inReset = false
  alone : s.schedule = []
  variant : s.cur.e = (e == .big)

theorem State.RunsHash.of_sameFrame {e : ByteOrder} {s t : State} (h : s.RunsHash e) (hf : s.sameFrame t) :
    t.RunsHash e where
  busy := hf.busy.trans h.busy
  hseq := hf.hseq.trans h.hseq
  live := hf.inReset.trans h.live
  alone := hf.schedule.trans h.alone
  variant := by rw [hf.cur, h.variant]

/-- The step of a device that runs HASH is the micro-operation its phase names and the move to the next phase
(43_hash_sequence.md R161). -/
theorem State.RunsHash.step {e : ByteOrder} {s r : State} (h : s.RunsHash e)
    (hm : hashMicro e s.phase s = some (.ok r)) : step s = .next (hashAdvance s.phase r) := by
  have hidle : s.phase ≠ .idle := fun hi => by rw [hi] at hm; cases hm
  have hcur : s.currentInstr = some (hashCommand e) := by
    rw [State.currentInstr, h.hseq, commandAt_hash _ _ hidle, h.variant]
    cases e <;> rfl
  rw [step_of_schedule_nil s h.alone, engineTurn_of_current s _ h.busy h.live hcur, exec_hashCommand, hashStep, hm]

theorem hashAdvance_of_nextPhase {ph ph' : Phase} {r : State} (h : nextPhase ph r = ph') (hne : ph' ≠ .idle) :
    hashAdvance ph r = r.setPhase ph' := by
  rw [hashAdvance_eq, ← nextPhase_eq, h, if_neg hne]

/-! ## Where a running HASH stands -/

/-- `t` is a state of the HASH that began in `u`, in phase `ph`: A and B hold those of `x`, the bytes of `x` are those from P
to the end of the buffer and the memory delivers them, and the bytes before P have been asked for, each once and in order. -/
structure HashAt (e : ByteOrder) (u : State) (ph : Phase) (x : TailState) (t : State) : Prop where
  runs : t.RunsHash e
  frame : u.sameFrame t
  phase : t.phase = ph
  a : t.a = x.a
  b : t.b = x.b
  left : t.n.toNat = x.rest.length
  place : t.onBuffer
  delivers : t.delivers t.p.toNat x.rest
  asked : ∃ new, t.reads = u.reads ++ new ∧ askedBytes new = List.range' t.addr.toNat (t.len.toNat - x.rest.length)

namespace HashAt

variable {e : ByteOrder} {u t : State} {ph ph' : Phase} {x : TailState}

/-- While bytes are left, P is not yet taken modulo 2^ADDR_W. -/
theorem p_add_length (h : HashAt e u ph x t) (hpos : 0 < x.rest.length) :
    t.p.toNat + x.rest.length = t.addr.toNat + t.len.toNat ∧ t.p.toNat + x.rest.length ≤ t.params.space := by
  obtain ⟨hfit, hle, hp⟩ := h.place
  rw [h.left] at hle hp
  rw [Nat.mod_eq_of_lt (by omega)] at hp
  omega

theorem p_lt_space (h : HashAt e u ph x t) : t.p.toNat < t.params.space := by
  rw [h.place.2.2]
  exact Nat.mod_lt _ t.params.space_pos

/-- A tail step whose bucket ends at `hi` and that reads `k` bytes from `lo` bytes on meets its bound check. -/
theorem in_range (h : HashAt e u ph x t) {hi lo k : Nat} (hhi : x.rest.length ≤ hi)
    (hk : lo ≤ x.rest.length → 1 ≤ k ∧ k ≤ x.rest.length) :
    ¬(t.n.toNat > hi ∨ t.n.toNat ≥ lo ∧ t.p.toNat + k > t.params.space) := by
  rw [h.left]
  rintro (hgt | ⟨hge, hgt⟩)
  · omega
  · have := hk hge
    have := (h.p_add_length (by omega)).2
    omega

/-- After `k` bytes the memory delivers the others. -/
theorem delivers_drop (h : HashAt e u ph x t) (k : Nat) :
    t.delivers (truncAddr t.params (t.p + BitVec.ofNat 64 k)).toNat (x.rest.drop k) := by
  by_cases hlt : k < x.rest.length
  · have hsum := (h.p_add_length (by omega)).2
    have hspace := t.params.space_le
    have hk : (BitVec.ofNat 64 k).toNat = k := by rw [BitVec.toNat_ofNat, Nat.mod_eq_of_lt (by omega)]
    rw [truncAddr_toNat, BitVec.toNat_add, hk, Nat.mod_eq_of_lt (a := t.p.toNat + k) (by omega),
      Nat.mod_eq_of_lt (by omega)]
    exact Machine.delivers_drop t _ k _ h.delivers
  · rw [List.drop_eq_nil_of_le (by omega)]
    exact t.delivers_nil _

/-- Requests for the next `k` bytes continue the bytes asked for. -/
theorem asked_append (h : HashAt e u ph x t) {k : Nat} (hk : k ≤ x.rest.length) {qs : List Request}
    (hq : askedBytes qs = List.range' t.p.toNat k) :
    ∃ new, t.reads ++ qs = u.reads ++ new ∧
      askedBytes new = List.range' t.addr.toNat (t.len.toNat - (x.rest.length - k)) := by
  obtain ⟨new, hnew, hasked⟩ := h.asked
  refine ⟨new ++ qs, by rw [hnew, List.append_assoc], ?_⟩
  rw [askedBytes_append, hasked, hq]
  rcases Nat.eq_zero_or_pos k with rfl | hpos
  · exact List.append_nil _
  · have hsum := (h.p_add_length (by omega)).1
    have hle := h.place.2.1
    rw [h.left] at hle
    rw [show t.p.toNat = t.addr.toNat + (t.len.toNat - x.rest.length) by omega, List.range'_append_1]
    congr 1
    omega

/-- The micro-operation has written `r`, consumed `k` bytes and asked for those: the next phase begins with the others. -/
theorem consume (h : HashAt e u ph x t) (r : State) (k : Nat) (qs : List Request) (hf : t.sameFrame r)
    (hk : k ≤ x.rest.length) (hp : r.p = truncAddr t.params (t.p + BitVec.ofNat 64 k))
    (hn : r.n = t.n - BitVec.ofNat 64 k) (hreads : r.reads = t.reads ++ qs)
    (hq : askedBytes qs = List.range' t.p.toNat k) : HashAt e u ph' ⟨r.a, r.b, x.rest.drop k⟩ (r.setPhase ph') := by
  have hf' : t.sameFrame (r.setPhase ph') := hf.trans rfl
  obtain ⟨hplace, hleft⟩ := onBuffer_advance t (r.setPhase ph') k h.place (by rw [h.left]; exact hk) hf'.addr hf'.len
    hf'.params hp hn
  refine ⟨h.runs.of_sameFrame hf', h.frame.trans hf', rfl, rfl, rfl, ?_, hplace, ?_, ?_⟩
  · rw [hleft, h.left, List.length_drop]
  · rw [State.setPhase_p, hp]
    exact hf'.delivers (h.delivers_drop k)
  · rw [State.setPhase_reads, hreads, hf'.addr, hf'.len, List.length_drop]
    exact h.asked_append hk hq

/-- A micro-operation that reads nothing and leaves P and N. -/
theorem keep (h : HashAt e u ph x t) (r : State) (hf : t.sameFrame r) (hp : r.p = t.p) (hn : r.n = t.n)
    (hreads : r.reads = t.reads) : HashAt e u ph' ⟨r.a, r.b, x.rest⟩ (r.setPhase ph') := by
  have := h.consume (ph' := ph') r 0 [] hf (Nat.zero_le _) ?_ (by rw [hn]; simp) (by rw [hreads]; simp) rfl
  · simpa using this
  · rw [hp, show t.p + BitVec.ofNat 64 0 = t.p by simp, truncAddr_of_lt _ _ h.p_lt_space]

/-- The step of a micro-operation that succeeds inside the sequence. -/
theorem run_step (h : HashAt e u ph x t) {r : State} (hm : hashMicro e ph t = some (.ok r)) (hnext : nextPhase ph r = ph')
    (hne : ph' ≠ .idle) : busyRun 1 t (r.setPhase ph') := by
  have hph := h.phase
  subst hph
  refine busyRun_one t _ h.runs.busy ?_
  rw [h.runs.step hm, hashAdvance_of_nextPhase hnext hne]

end HashAt

/-! ## The tail -/

/-- A step of the cascade that reads a whole word, for the bucket from `lo` on, mixing by `f word a b`. -/
def wordStep (lo : Nat) (f : Word → Word → Word → Word × Word) (e : ByteOrder) (x : TailState) : TailState :=
  if lo ≤ x.rest.length then
    ⟨(f (assembleWord e x.rest) x.a x.b).1, (f (assembleWord e x.rest) x.a x.b).2, x.rest.drop 4⟩
  else x

/-- Mix into (a, b). -/
def mixIntoAB (q v a b : Word) : Word × Word := mixup32 a b v q

/-- Mix into (b, a). -/
def mixIntoBA (q v a b : Word) : Word × Word := (mixup32 b a v q).swap

theorem cascade4_eq_wordStep (p : Params) (e : ByteOrder) (x : TailState) :
    cascade4 p e x = wordStep 13 (mixIntoAB p.q[4]) e x := rfl

theorem cascade3_eq_wordStep (p : Params) (e : ByteOrder) (x : TailState) :
    cascade3 p e x = wordStep 9 (mixIntoBA p.q[3]) e x := rfl

theorem cascade2_eq_wordStep (p : Params) (e : ByteOrder) (x : TailState) :
    cascade2 p e x = wordStep 5 (mixIntoAB p.q[2]) e x := rfl

/-- The step takes its bucket to the one below. -/
theorem wordStep_length_le (lo : Nat) (f : Word → Word → Word → Word × Word) (e : ByteOrder) (x : TailState)
    (h : x.rest.length ≤ lo + 3) (hlo : 1 ≤ lo) : (wordStep lo f e x).rest.length ≤ lo - 1 := by
  unfold wordStep
  split
  · rw [List.length_drop]; omega
  · omega

theorem cascade1_rest (p : Params) (e : ByteOrder) (x : TailState) : (cascade1 p e x).rest = [] := by
  unfold cascade1
  split
  · rfl
  · exact List.length_eq_zero_iff.1 (by omega)

namespace HashAt

variable {e : ByteOrder} {u t : State} {ph ph' : Phase} {x : TailState}

/-- A phase that reads a whole word and mixes it does the cascade's step (42_mixer_tail_final.md R141, R142, R143). -/
theorem run_wordStep (h : HashAt e u ph x t) {hi lo : Nat} {mix : Word → State → State}
    (f : Word → Word → Word → Word × Word) (hm : hashMicro e ph t = some (microTailWord hi lo mix e t))
    (hnext : ∀ r, nextPhase ph r = ph') (hne : ph' ≠ .idle)
    (hmix : ∀ v r, mix v r = r.setAB (f v r.a r.b).1 (f v r.a r.b).2) (hlo : 4 ≤ lo) (hhi : x.rest.length ≤ hi) :
    ∃ t', busyRun 1 t t' ∧ HashAt e u ph' (wordStep lo f e x) t' := by
  have hn := h.left
  have hmicro := (microTailWord_eq hi lo mix e t).2 (h.in_range hhi fun hge => ⟨by decide, hlo.trans hge⟩)
  by_cases hge : lo ≤ x.rest.length
  · have hissue := issue_wordRequests t t.params t.p.toNat (x.rest.take 4) (delivers_take t _ 4 _ h.delivers)
      (by rw [List.length_take]; omega)
    rw [if_pos (by omega), hissue] at hmicro
    rw [hmicro] at hm
    refine ⟨_, h.run_step hm (hnext _) hne, ?_⟩
    have hx : wordStep lo f e x = ⟨(tailEffect lo mix e (x.rest.take 4) t).a, (tailEffect lo mix e (x.rest.take 4) t).b,
        x.rest.drop 4⟩ := by
      simp [wordStep, tailEffect, hge, show ¬t.n.toNat < lo by omega, hmix, assembleWord_take, h.a, h.b, State.advance]
    rw [hx]
    simp only [tailEffect, if_neg (show ¬t.n.toNat < lo by omega), hmix]
    exact h.consume _ 4 _ rfl (by omega) rfl rfl rfl (askedBytes_wordRequests _ _)
  · rw [if_neg (by omega)] at hmicro
    have hstay : tailEffect lo mix e [] t = t := by rw [tailEffect, if_pos (by omega)]
    simp only [State.issue, hstay] at hmicro
    rw [hmicro] at hm
    refine ⟨_, h.run_step hm (hnext _) hne, ?_⟩
    have hx : wordStep lo f e x = ⟨t.a, t.b, x.rest⟩ := by rw [wordStep, if_neg hge, h.a, h.b]
    rw [hx]
    exact h.keep t rfl rfl rfl rfl

theorem run_tailQ4 (h : HashAt e u .tailQ4 x t) (hlen : x.rest.length ≤ 16) :
    ∃ t', busyRun 1 t t' ∧ HashAt e u .tailQ3 (cascade4 u.params e x) t' := by
  rw [cascade4_eq_wordStep, ← h.frame.params]
  exact h.run_wordStep _ rfl (fun _ => rfl) (by decide) (fun _ _ => rfl) (by decide) hlen

theorem run_tailQ3 (h : HashAt e u .tailQ3 x t) (hlen : x.rest.length ≤ 12) :
    ∃ t', busyRun 1 t t' ∧ HashAt e u .tailQ2 (cascade3 u.params e x) t' := by
  rw [cascade3_eq_wordStep, ← h.frame.params]
  exact h.run_wordStep _ rfl (fun _ => rfl) (by decide) (fun _ _ => rfl) (by decide) hlen

theorem run_tailQ2 (h : HashAt e u .tailQ2 x t) (hlen : x.rest.length ≤ 8) :
    ∃ t', busyRun 1 t t' ∧ HashAt e u .tailQ1 (cascade2 u.params e x) t' := by
  rw [cascade2_eq_wordStep, ← h.frame.params]
  exact h.run_wordStep _ rfl (fun _ => rfl) (by decide) (fun _ _ => rfl) (by decide) hlen

/-- TAIL.Q1 takes all that is left, or nothing (R144; 90_conflicts.md C1). -/
theorem run_tailQ1 (h : HashAt e u .tailQ1 x t) (hlen : x.rest.length ≤ 4) :
    ∃ t', busyRun 1 t t' ∧ HashAt e u .remix (cascade1 u.params e x) t' := by
  have hn := h.left
  have hm : hashMicro e .tailQ1 t = some (microTailQ1 e t) := rfl
  rw [(microTailQ1_eq e t).2 (h.in_range hlen fun hge => by omega)] at hm
  rw [← h.frame.params]
  by_cases hge : 1 ≤ x.rest.length
  · have hissue := issue_tailRequests t t.params t.p.toNat x.rest h.delivers
    rw [if_pos (by omega), hn, hissue] at hm
    refine ⟨_, h.run_step (ph' := .remix) hm rfl (by decide), ?_⟩
    have hpos : ¬x.rest.length < 1 := by omega
    have hx : cascade1 t.params e x = ⟨(tailQ1Effect e x.rest t).a, (tailQ1Effect e x.rest t).b,
        x.rest.drop x.rest.length⟩ := by
      simp only [cascade1, tailQ1Effect, hn, if_pos hge, if_neg hpos, List.drop_length]
      simp [State.mixBA, State.advance, h.a, h.b]
    rw [hx]
    simp only [tailQ1Effect, hn, if_neg hpos]
    exact h.consume _ x.rest.length _ rfl (Nat.le_refl _) rfl rfl rfl (askedBytes_tailRequests _ _ _)
  · rw [if_neg (by omega)] at hm
    have hstay : tailQ1Effect e [] t = t := by rw [tailQ1Effect, if_pos (by omega)]
    simp only [State.issue, hstay] at hm
    refine ⟨_, h.run_step (ph' := .remix) hm rfl (by decide), ?_⟩
    have hx : cascade1 t.params e x = ⟨t.a, t.b, x.rest⟩ := by rw [cascade1, if_neg hge, h.a, h.b]
    rw [hx]
    exact h.keep t rfl rfl rfl rfl

/-- The four tail phases are the cascade (43_hash_sequence.md R160, R164). -/
theorem run_cascade (h : HashAt e u .tailQ4 x t) (hlen : x.rest.length ≤ 16) :
    ∃ t', busyRun 4 t t' ∧ HashAt e u .remix (cascade u.params e x) t' := by
  obtain ⟨t1, r1, h1⟩ := h.run_tailQ4 hlen
  have l1 := wordStep_length_le 13 (mixIntoAB u.params.q[4]) e x hlen (by decide)
  obtain ⟨t2, r2, h2⟩ := h1.run_tailQ3 l1
  have l2 := wordStep_length_le 9 (mixIntoBA u.params.q[3]) e (cascade4 u.params e x) l1 (by decide)
  obtain ⟨t3, r3, h3⟩ := h2.run_tailQ2 l2
  have l3 := wordStep_length_le 5 (mixIntoAB u.params.q[2]) e (cascade3 u.params e (cascade4 u.params e x)) l2 (by decide)
  obtain ⟨t4, r4, h4⟩ := h3.run_tailQ1 l3
  exact ⟨t4, ((r1.trans r2).trans r3).trans r4, h4⟩

/-- REMIX ends the command with the mixed accumulator in RES (R147, R161). -/
theorem run_remix (h : HashAt e u .remix x t) :
    busyRun 1 t (((t.setAB (remix32 u.params x.a x.b).1 x.b).setRes (remix32 u.params x.a x.b).2).endHash) := by
  refine busyRun_one t _ h.runs.busy ?_
  have hm : hashMicro e t.phase t = some (microRemix t) := by rw [h.phase]; rfl
  rw [h.runs.step hm, h.phase, ← h.frame.params, ← h.a, ← h.b]
  rfl

end HashAt

/-! ## The bulk phase -/

/-- The last block of a loop, taken off its end. -/
theorem bulkLoop_succ (p : Params) (e : ByteOrder) (k : Nat) (v : Acc) (bs : List Byte) :
    bulkLoop p e (k + 1) v bs = blockOfBytes p e (bs.drop (16 * k)) (bulkLoop p e k v bs) := by
  induction k generalizing v bs with
  | zero => rfl
  | succ k ih =>
    rw [bulkLoop, ih, List.drop_drop, show 16 + 16 * k = 16 * (k + 1) by omega]
    rfl

namespace HashAt

variable {e : ByteOrder} {u t : State} {v : Acc} {rest : List Byte}

theorem run_bulkSetup {x : TailState} (h : HashAt e u .bulkSetup x t) :
    ∃ t', busyRun 1 t t' ∧ HashAt e u .bulkBlock x t' ∧ t'.acc = setupAcc x.a x.b := by
  refine ⟨_, h.run_step (ph' := .bulkBlock) (r := t.setAcc (setupAcc t.a t.b)) rfl rfl (by decide), ?_, ?_⟩
  · have := h.keep (ph' := .bulkBlock) (t.setAcc (setupAcc t.a t.b)) rfl rfl rfl rfl
    rwa [show (⟨_, _, x.rest⟩ : TailState) = x by rw [State.setAcc_a, State.setAcc_b, setupAcc, h.a, h.b]] at this
  · rw [← h.a, ← h.b]; rfl

/-- One block (41_mixer_bulk.md R123), and the phase that N gives afterwards (43_hash_sequence.md R161). -/
theorem run_bulkBlock (h : HashAt e u .bulkBlock ⟨v.a, v.b, rest⟩ t) (hv : t.acc = v) (hlen : 16 ≤ rest.length) :
    ∃ t', busyRun 1 t t' ∧ t'.acc = blockOfBytes u.params e rest v ∧
      HashAt e u (if 32 ≤ rest.length then .bulkBlock else .bulkFold)
        ⟨(blockOfBytes u.params e rest v).a, (blockOfBytes u.params e rest v).b, rest.drop 16⟩ t' := by
  have hn : t.n.toNat = rest.length := h.left
  have hroom : ¬(t.n.toNat < 16 ∨ t.p.toNat + 16 > t.params.space) := by
    have : t.p.toNat + rest.length ≤ t.params.space := (h.p_add_length (by show 0 < rest.length; omega)).2
    omega
  have hissue := issue_blockRequests t t.params t.p.toNat (rest.take 16) (delivers_take t _ 16 _ h.delivers)
    (by rw [List.length_take]; omega)
  have hm : hashMicro e .bulkBlock t = some (.ok (blockEffect e (rest.take 16) t)) := by
    simp only [hashMicro, microBulkBlock, if_neg hroom, hissue, blockEffect]
  have hn' : (blockEffect e (rest.take 16) t).n.toNat = rest.length - 16 :=
    (onBuffer_advance t (blockEffect e (rest.take 16) t) 16 h.place (by omega) rfl rfl rfl rfl rfl).2.trans (by rw [hn])
  have hnext : nextPhase .bulkBlock (blockEffect e (rest.take 16) t) =
      if 32 ≤ rest.length then .bulkBlock else .bulkFold := by
    simp only [nextPhase, hn']
    exact if_congr (by omega) rfl rfl
  have hacc : (blockEffect e (rest.take 16) t).acc = blockOfBytes u.params e rest v := by
    rw [← h.frame.params, ← hv, ← blockOfBytes_take]; rfl
  refine ⟨_, h.run_step hm hnext (by split <;> decide), hacc, ?_⟩
  rw [← hacc]
  exact h.consume _ 16 _ rfl hlen rfl rfl rfl (askedBytes_blockRequests _ _)

/-- `k` blocks that leave a whole block: the engine is still in the block phase. -/
theorem run_blocks (k : Nat) (h : HashAt e u .bulkBlock ⟨v.a, v.b, rest⟩ t) (hv : t.acc = v)
    (hlen : 16 * k + 16 ≤ rest.length) :
    ∃ t', busyRun k t t' ∧ t'.acc = bulkLoop u.params e k v rest ∧ HashAt e u .bulkBlock
      ⟨(bulkLoop u.params e k v rest).a, (bulkLoop u.params e k v rest).b, rest.drop (16 * k)⟩ t' := by
  induction k generalizing t v rest with
  | zero => exact ⟨t, busyRun_zero t, hv, h⟩
  | succ k ih =>
    obtain ⟨t1, r1, hv1, h1⟩ := h.run_bulkBlock hv (by omega)
    rw [if_pos (by omega)] at h1
    obtain ⟨t2, r2, hv2, h2⟩ := ih h1 hv1 (by rw [List.length_drop]; omega)
    rw [List.drop_drop, show 16 + 16 * k = 16 * (k + 1) by omega] at h2
    exact ⟨t2, Nat.add_comm 1 k ▸ r1.trans r2, hv2, h2⟩

/-- The block phase takes every whole block (43_hash_sequence.md R163). -/
theorem run_allBlocks (h : HashAt e u .bulkBlock ⟨v.a, v.b, rest⟩ t) (hv : t.acc = v) (hlen : 16 ≤ rest.length) :
    ∃ t', busyRun (rest.length / 16) t t' ∧ t'.acc = bulkLoop u.params e (rest.length / 16) v rest ∧
      HashAt e u .bulkFold
        ⟨(bulkLoop u.params e (rest.length / 16) v rest).a, (bulkLoop u.params e (rest.length / 16) v rest).b,
          rest.drop (16 * (rest.length / 16))⟩ t' := by
  obtain ⟨k, hk⟩ : ∃ k, rest.length / 16 = k + 1 := ⟨rest.length / 16 - 1, by omega⟩
  obtain ⟨t1, r1, hv1, h1⟩ := h.run_blocks k hv (by omega)
  obtain ⟨t2, r2, hv2, h2⟩ := h1.run_bulkBlock hv1 (by rw [List.length_drop]; omega)
  rw [if_neg (by rw [List.length_drop]; omega), List.drop_drop, ← bulkLoop_succ] at h2
  rw [← bulkLoop_succ] at hv2
  rw [hk]
  exact ⟨t2, r1.trans r2, hv2, h2⟩

theorem run_bulkFold (h : HashAt e u .bulkFold ⟨v.a, v.b, rest⟩ t) (hv : t.acc = v) :
    ∃ t', busyRun 1 t t' ∧ HashAt e u .tailQ4 ⟨(foldAcc u.params v).a, (foldAcc u.params v).b, rest⟩ t' := by
  rw [← h.frame.params, ← hv]
  exact ⟨_, h.run_step (ph' := .tailQ4) (r := t.setAcc (foldAcc t.params t.acc)) rfl rfl (by decide),
    h.keep (t.setAcc (foldAcc t.params t.acc)) rfl rfl rfl rfl⟩

end HashAt

/-! ## From acceptance to the end -/

/-- A HASH of the variant `e` over the bytes `bs` is accepted and has not taken a step; its buffer lies in the address space
and the memory delivers it. -/
structure State.ReadyToHash (e : ByteOrder) (bs : List Byte) (u : State) : Prop where
  runs : u.RunsHash e
  phase : u.phase = .init
  addrBound : u.addr.toNat < u.params.space
  fits : u.addr.toNat + u.len.toNat ≤ u.params.space
  length : bs.length = u.len.toNat
  delivers : u.delivers u.addr.toNat bs

namespace State.ReadyToHash

variable {e : ByteOrder} {bs : List Byte} {u : State}

/-- INIT (41_mixer_bulk.md R120), and the phase that LEN gives afterwards (43_hash_sequence.md R161). -/
theorem run_init (h : u.ReadyToHash e bs) :
    ∃ t, busyRun 1 u t ∧ HashAt e u (if 16 < bs.length then .bulkSetup else .tailQ4)
      ⟨initA u.params u.len u.seed, initB u.len u.seed, bs⟩ t := by
  have hfits := h.fits
  have hlen := h.length
  have hp : truncAddr u.params u.addr = u.addr := truncAddr_of_lt _ _ h.addrBound
  have hm : hashMicro e u.phase u = some (.ok (effect .init bs u)) := by
    rw [h.phase, hashMicro, microInit, if_neg (by omega)]
    rfl
  have hnext : nextPhase .init (effect .init bs u) = if 16 < bs.length then .bulkSetup else .tailQ4 := by
    rw [hlen]
    rfl
  have hframe (ph : Phase) : u.sameFrame ((effect .init bs u).setPhase ph) := rfl
  refine ⟨(effect .init bs u).setPhase (if 16 < bs.length then .bulkSetup else .tailQ4), ?_,
    h.runs.of_sameFrame (hframe _), hframe _, rfl, rfl, rfl, hlen.symm, ⟨hfits, Nat.le_refl _, ?_⟩, ?_, [], ?_, ?_⟩
  · refine busyRun_one _ _ h.runs.busy ?_
    rw [h.runs.step hm, h.phase, hashAdvance_of_nextPhase hnext (by split <;> decide)]
  · show (truncAddr u.params u.addr).toNat = (u.addr.toNat + u.len.toNat - u.len.toNat) % u.params.space
    rw [truncAddr_toNat, Nat.add_sub_cancel]
  · show State.delivers _ (truncAddr u.params u.addr).toNat bs
    rw [hp]
    exact (hframe _).delivers h.delivers
  · exact (List.append_nil _).symm
  · show [] = List.range' u.addr.toNat (u.len.toNat - bs.length)
    rw [hlen, Nat.sub_self]
    rfl

/-- The steps before the tail phase (43_hash_sequence.md R160, R164). -/
theorem run_toTail (h : u.ReadyToHash e bs) :
    ∃ t, busyRun (if bs.length ≤ 16 then 1 else 3 + bs.length / 16) u t ∧
      HashAt e u .tailQ4 (beforeTail u.params e bs u.seed) t := by
  have hlen : BitVec.ofNat 64 bs.length = u.len := by rw [h.length, BitVec.ofNat_toNat, BitVec.setWidth_eq]
  obtain ⟨t1, r1, h1⟩ := h.run_init
  by_cases hlong : 16 < bs.length
  · rw [if_pos hlong] at h1
    obtain ⟨t2, r2, h2, hv2⟩ := h1.run_bulkSetup
    obtain ⟨t3, r3, hv3, h3⟩ := HashAt.run_allBlocks
      (v := setupAcc (initA u.params u.len u.seed) (initB u.len u.seed)) h2 hv2 (by show 16 ≤ bs.length; omega)
    obtain ⟨t4, r4, h4⟩ := h3.run_bulkFold hv3
    rw [if_neg (by omega), show 3 + bs.length / 16 = 1 + 1 + bs.length / 16 + 1 by omega]
    refine ⟨t4, ((r1.trans r2).trans r3).trans r4, ?_⟩
    rwa [beforeTail, hlen, if_pos hlong]
  · rw [if_neg hlong] at h1
    rw [if_pos (by omega)]
    refine ⟨t1, r1, ?_⟩
    rwa [beforeTail, hlen, if_neg hlong]

end State.ReadyToHash

/-- What is left when the tail phase begins is at most sixteen bytes. -/
theorem beforeTail_length_le (p : Params) (e : ByteOrder) (bs : List Byte) (seed : Dword) :
    (beforeTail p e bs seed).rest.length ≤ 16 := by
  unfold beforeTail
  split
  · rw [List.length_drop]; omega
  · exact Nat.le_of_not_lt ‹_›

/-- The steps before REMIX, with nothing left to read (43_hash_sequence.md R168). -/
theorem State.ReadyToHash.run_toRemix {e : ByteOrder} {bs : List Byte} {u : State} (h : u.ReadyToHash e bs) :
    ∃ t, busyRun (if bs.length ≤ 16 then 5 else 7 + bs.length / 16) u t ∧
      HashAt e u .remix (cascade u.params e (beforeTail u.params e bs u.seed)) t := by
  obtain ⟨t1, r1, h1⟩ := h.run_toTail
  obtain ⟨t2, r2, h2⟩ := h1.run_cascade (beforeTail_length_le _ _ _ _)
  refine ⟨t2, ?_, h2⟩
  have hsteps : (if bs.length ≤ 16 then 1 else 3 + bs.length / 16) + 4 =
      if bs.length ≤ 16 then 5 else 7 + bs.length / 16 := by
    split <;> omega
  exact hsteps ▸ r1.trans r2

/-- The whole run (43_hash_sequence.md R166, R168, R170): RES is the hash, every byte has been asked for once and in order,
and P and N stand at the end of the buffer. -/
theorem State.ReadyToHash.run_hash {e : ByteOrder} {bs : List Byte} {u : State} (h : u.ReadyToHash e bs) :
    ∃ t, busyRun (hashSteps bs.length) u ((t.setRes (hashValue u.params e bs u.seed)).endHash) ∧ u.sameFrame t ∧
      t.n = 0 ∧ t.p = BitVec.ofNat 64 ((u.addr.toNat + u.len.toNat) % u.params.space) ∧
      ∃ new, t.reads = u.reads ++ new ∧ askedBytes new = List.range' u.addr.toNat u.len.toNat := by
  obtain ⟨t, r, ht⟩ := h.run_toRemix
  set x := cascade u.params e (beforeTail u.params e bs u.seed) with hx
  have hrest : x.rest = [] := cascade1_rest _ _ _
  have hsteps : (if bs.length ≤ 16 then 5 else 7 + bs.length / 16) + 1 = hashSteps bs.length := by
    unfold hashSteps
    split <;> omega
  have hn : t.n.toNat = 0 := by rw [ht.left, hrest]; rfl
  refine ⟨t.setAB (remix32 u.params x.a x.b).1 x.b, hsteps ▸ r.trans ht.run_remix, ht.frame.trans rfl,
    BitVec.eq_of_toNat_eq hn, ?_, ?_⟩
  · have hp := ht.place.2.2
    rw [hn, Nat.sub_zero, ht.frame.addr, ht.frame.len, ht.frame.params] at hp
    rw [State.setAB_p, ← hp, BitVec.ofNat_toNat, BitVec.setWidth_eq]
  · obtain ⟨new, hnew, hasked⟩ := ht.asked
    rw [hrest, ht.frame.addr, ht.frame.len] at hasked
    exact ⟨new, hnew, hasked⟩

/-- Acceptance of a HASH command (30_encoding.md R90). -/
theorem acceptCommand_hash (e : ByteOrder) (s : State) :
    s.acceptCommand (commandValue (hashCommand e)) =
      (s.noteCommand (commandValue (hashCommand e))).startCommand (commandValue (hashCommand e)) (hashCommand e) := by
  cases e <;> rfl

/-- An idle device whose memory holds the buffer and answers there, after acceptance of HASH. -/
theorem readyToHash_acceptCommand (e : ByteOrder) (s : State) (bs : List Byte) (hreset : s.inReset = false)
    (hsched : s.schedule = []) (haddr : s.addr.toNat < s.params.space)
    (hfits : s.addr.toNat + s.len.toNat ≤ s.params.space) (hlen : bs.length = s.len.toNat)
    (hmem : Memory.holds s.mem s.addr.toNat bs) (hans : s.answersAll s.addr.toNat bs.length) :
    (s.acceptCommand (commandValue (hashCommand e))).ReadyToHash e bs := by
  rw [acceptCommand_hash]
  refine ⟨⟨rfl, ?_, hreset, hsched, ?_⟩, ?_, haddr, hfits, hlen, hmem, hans, fun y hy => ?_⟩
  · cases e <;> rfl
  · cases e <;> rfl
  · cases e <;> rfl
  · exact absurd hy List.not_mem_nil

/-- Settles O55, from the run of the accepted command to its last step. -/
theorem hashComputesTheHash : Obligations.HashComputesTheHash := by
  intro e s bs _ hreset hsched haddr hfits hlen hmem hans
  have hready := readyToHash_acceptCommand e s bs hreset hsched haddr hfits hlen hmem hans
  obtain ⟨t, ⟨hrun, hbusy⟩, hf, hn, hp, -⟩ := hready.run_hash
  rw [acceptCommand_hash] at *
  refine ⟨⟨_, hrun, rfl, rfl, rfl, hf.err, rfl, rfl, hn, hp, hf.w, hf.addr, hf.len, hf.seed, hf.eaddr, hf.ovr, hf.mem,
    ?_⟩, hbusy⟩
  rw [State.endHash_cmd, State.setRes_cmd, hf.cmd]
  cases e <;> rfl

end Sys2Proof.Machine

/-!
The state of the machine (10_state.md): the invariant at reset and along every step, what no engine step writes, and the
register port. The invariant falls into three parts: the data's bounds, the flags of a command's end, and the control state.
-/

namespace Sys2Proof.Machine

/-! ## The invariant in parts -/

/-- The part of the invariant that speaks of memory, the address registers and the latch. A `def`, so that it passes as it is
to a state with the same such fields. -/
def State.DataInv (s : State) : Prop :=
  (Memory.wf s.mem = true ∧ Memory.within s.params.space s.mem = true) ∧ s.addr.toNat < s.params.space ∧
    s.p.toNat < s.params.space ∧ s.eaddr.toNat < s.params.space ∧ s.ecur = s.cur.e

/-- The part that speaks of the flags a command's end leaves: DONE, ERR, ECODE and EPHASE. -/
def State.FlagInv (s : State) : Prop :=
  ¬(s.done = true ∧ s.err = true) ∧ (s.err = true ↔ s.ecode ≠ .none) ∧ (s.err = false → s.ephase = .idle)

theorem State.Inv.memory {s : State} (hI : s.Inv) :
    Memory.wf s.mem = true ∧ Memory.within s.params.space s.mem = true := ⟨hI.memForm, hI.memBound⟩

theorem State.Inv.data {s : State} (hI : s.Inv) : s.DataInv :=
  ⟨hI.memory, hI.addrBound, hI.pBound, hI.eaddrBound, hI.ecurCur⟩

theorem State.Inv.flags {s : State} (hI : s.Inv) : s.FlagInv := ⟨hI.oneEnd, hI.errCode, hI.errPhase⟩

/-- In an idle state the invariant says no more than its parts on data and flags. -/
theorem State.Inv.of_idle {t : State} (hd : t.DataInv) (hf : t.FlagInv) (hb : t.busy = false) (hph : t.phase = .idle)
    (hq : t.hseq = false) : t.Inv := by
  obtain ⟨⟨hform, hbound⟩, haddr, hp, headdr, hecur⟩ := hd
  obtain ⟨hone, hcode, hephase⟩ := hf
  exact {
    memForm := hform
    memBound := hbound
    addrBound := haddr
    pBound := hp
    eaddrBound := headdr
    busyPhase := by simp [hb, hph]
    hseqBusy := by simp [hq]
    busyClear := by simp [hb]
    oneEnd := hone
    errCode := hcode
    errPhase := hephase
    ecurCur := hecur
    running := by simp [hb]
    progress := by simp [hq]
    resetIdle := fun _ => hb }

theorem State.Inv.idle {s : State} (hI : s.Inv) (hb : s.busy = false) : s.phase = .idle ∧ s.hseq = false := by
  constructor
  · by_contra hph
    simp [hI.busyPhase.2 hph] at hb
  · by_contra hq
    simp [hI.hseqBusy (by simpa using hq)] at hb

/-- A running command has left ECODE and EPHASE clear. -/
theorem State.Inv.busy_flags {s : State} (hI : s.Inv) (hb : s.busy = true) :
    s.done = false ∧ s.err = false ∧ s.ecode = .none ∧ s.ephase = .idle := by
  obtain ⟨hdone, herr⟩ := hI.busyClear hb
  refine ⟨hdone, herr, ?_, hI.errPhase herr⟩
  by_contra hc
  simp [hI.errCode.2 hc] at herr

/-! ## Reset -/

theorem resetWith_inv (p : Params) : (State.resetWith p).Inv := by
  have hpos := p.space_pos
  exact .of_idle ⟨⟨rfl, rfl⟩, hpos, hpos, hpos, rfl⟩ (by simp [State.FlagInv, State.resetWith]) rfl rfl rfl

/-- Settles O51: the reset state is idle, its memory empty and its registers 0. -/
theorem resetMeetsInvariant : Obligations.ResetMeetsInvariant := ⟨resetWith_inv Config.recommended, resetWith_inv⟩

theorem resetWith_statusWord (p : Params) : (State.resetWith p).statusWord = 0 := by
  simp [State.statusWord, State.resetWith, flagAt, fieldAt, Phase.code, ECode.code]

theorem pair64_zero : pair64 0 0 = 0 := by decide

/-- Settles O17, slot by slot. -/
theorem resetValues : Obligations.ResetValues := by
  intro p
  refine ⟨fun r => ?_, rfl, rfl, rfl, rfl, rfl, rfl, rfl, rfl, rfl, rfl, rfl⟩
  cases r with
  | status => exact resetWith_statusWord p
  | ab | cd => exact pair64_zero
  | _ => rfl

/-! ## What the invariant does not speak of -/

/-- `s` with the fields that the invariant does not name taken from `w`, and memory with them. -/
def State.withOutsideOf (s w : State) : State :=
  { s with
    cmd := w.cmd, ovr := w.ovr, seed := w.seed, a := w.a, b := w.b, c := w.c, d := w.d, w := w.w, res := w.res,
    alignbuf := w.alignbuf, mem := w.mem, failing := w.failing, held := w.held, freeIx := w.freeIx, reads := w.reads,
    rdata := w.rdata, schedule := w.schedule }

/-- The invariant passes to a state that differs only there, when its memory is as it should be. -/
theorem State.Inv.outside {s : State} (hI : s.Inv) (t : State) (ht : t = s.withOutsideOf t)
    (hm : Memory.wf t.mem = true ∧ Memory.within s.params.space t.mem = true) : t.Inv := by
  rw [ht]
  exact hI.congr s _ rfl hm rfl rfl rfl rfl rfl rfl id (.inl ⟨rfl, rfl, rfl⟩) rfl rfl id rfl rfl

/-! ## The engine -/

/-- An error's end of a command, whatever its address and the requests issued. -/
theorem State.Inv.stopped {s : State} (hI : s.Inv) (hb : s.busy = true) (code : ECode) (hc : code ≠ .none) (ph : Phase)
    (x : Nat) : ((s.reportError code ph (some x)).stopEngine).Inv := by
  obtain ⟨hmem, haddr, hp, -, hecur⟩ := hI.data
  obtain ⟨hdone, -⟩ := hI.busyClear hb
  exact .of_idle ⟨hmem, haddr, hp, truncAddr_lt _ _, hecur⟩ (by simp [State.FlagInv, hdone, hc]) rfl rfl rfl

theorem State.Inv.raiseRange {s : State} (hI : s.Inv) (hb : s.busy = true) (ph : Phase) (x : Nat) :
    (s.raiseRange ph x).Inv := hI.stopped hb .range (by decide) ph x

theorem State.Inv.raiseBus {s : State} (hI : s.Inv) (hb : s.busy = true) (ph : Phase) (x : Nat) (q : List Request) :
    (s.raiseBus ph x q).Inv :=
  (hI.outside (s.noteReads false [] q) rfl hI.memory).stopped hb .bus (by decide) ph x

/-- The effect of a micro-operation changes nothing in the data but P, which keeps to ADDR_W bits. -/
theorem State.DataInv.effect {s : State} (h : s.DataInv) (i : Instr) (bs : List Byte) : (effect i bs s).DataInv := by
  obtain ⟨hmem, haddr, hp, headdr, hecur⟩ := h
  have hp' := effect_pBound s i bs hp
  simp only [State.DataInv, effect_frame s i bs]
  exact ⟨hmem, haddr, hp', headdr, hecur⟩

/-- The end of a command without an error; HSEQ is 0 then, since it was or because the end of HASH clears it. -/
theorem State.Inv.ended {s : State} (hI : s.Inv) (hb : s.busy = true) (i : Instr) (bs : List Byte) (q : Bool)
    (hq : q = false) : { (effect i bs s).endCommand with hseq := q }.Inv := by
  obtain ⟨-, herr, hcode, hephase⟩ := hI.busy_flags hb
  refine .of_idle (hI.data.effect i bs) ?_ rfl rfl hq
  simp [State.FlagInv, State.endCommand, effect_frame s i bs, herr, hcode, hephase]

/-- A step of HASH that leads to its next micro-operation. -/
theorem State.Inv.nextMicro {e : ByteOrder} {s : State} {i : Instr} {bs : List Byte} (hI : s.Inv) (hq : s.hseq = true)
    (hc : microCommand e s.phase = some i) (hr : ¬rangeFails i s)
    (hn : hashNext (effect i bs s).len.toNat (effect i bs s).n.toNat s.phase ≠ .idle) :
    ((effect i bs s).setPhase (hashNext (effect i bs s).len.toNat (effect i bs s).n.toNat s.phase)).Inv := by
  have hb := hI.hseqBusy hq
  have hne : s.phase ≠ .remix := fun h => hn ((hashNext_idle _ _ _ _ _ hc).2 h)
  obtain ⟨⟨hform, hbound⟩, haddr, hp, headdr, hecur⟩ := hI.data.effect i bs
  obtain ⟨hone, hcode, hephase⟩ := hI.flags
  have hf := effect_frame s i bs
  have hb' : (effect i bs s).busy = true := by simp only [hf, hb]
  obtain ⟨c, hdec, hhash, -⟩ := hI.running hb
  exact {
    memForm := hform
    memBound := hbound
    addrBound := haddr
    pBound := hp
    eaddrBound := headdr
    busyPhase := iff_of_true hb' hn
    hseqBusy := fun _ => hb'
    busyClear := by simpa [hf] using hI.busyClear
    oneEnd := by simpa [hf] using hone
    errCode := by simpa [hf] using hcode
    errPhase := by simpa [hf] using hephase
    ecurCur := hecur
    running := fun _ => ⟨c, by simpa [hf] using hdec, by simpa [hf] using hhash, by simp [hf, hq]⟩
    progress := fun _ => hashProgress_advance e s i bs hI hq hc hr hne
    resetIdle := by simpa [hf] using hI.resetIdle }

/-- A step of a micro-operation command ends it. -/
theorem State.Inv.exec_micro {i : Instr} {s t : State} (hI : s.Inv) (hb : s.busy = true) (hq : s.hseq = false)
    (hh : isHash i = false) (h : exec i s = .next t) : t.Inv := by
  obtain ⟨-, ⟨-, rfl⟩ | ⟨-, x, q, -, rfl⟩ | ⟨-, bs, -, rfl⟩⟩ := exec_cases i s t hh h
  · exact hI.raiseRange hb _ _
  · exact hI.raiseBus hb _ _ _
  · exact hI.ended hb i bs (effect i bs s).hseq (by rw [← hq]; simp only [effect_frame s i bs])

/-- A step of HASH ends it or leads to its next micro-operation. -/
theorem State.Inv.exec_hash {e : ByteOrder} {s t : State} (hI : s.Inv) (hq : s.hseq = true)
    (h : exec (hashCommand e) s = .next t) : t.Inv := by
  have hb := hI.hseqBusy hq
  obtain ⟨i, hc, ⟨-, rfl⟩ | ⟨-, x, q, -, rfl⟩ | ⟨hr, bs, -, rfl⟩⟩ := hash_cases e s t h
  · exact hI.raiseRange hb _ _
  · exact hI.raiseBus hb _ _ _
  · rw [hashAdvance_eq]
    split
    · exact hI.ended hb i bs false rfl
    · next hn => exact hI.nextMicro hq hc hr hn

theorem State.Inv.engineTurn {s t : State} (hI : s.Inv) (h : s.engineTurn = .next t) : t.Inv := by
  by_cases hrun : s.busy = true ∧ s.inReset = false
  · obtain ⟨hb, hlive⟩ := hrun
    obtain ⟨i, -, hcur, hmicro, hhash⟩ := currentInstr_spec s hI hb
    rw [engineTurn_of_current s i hb hlive hcur] at h
    cases hq : s.hseq with
    | false => exact hI.exec_micro hb hq (hmicro hq).1 h
    | true =>
      obtain ⟨e, rfl⟩ := hhash hq
      exact hI.exec_hash hq h
  · rw [State.engineTurn, if_neg hrun] at h
    cases h
    exact hI

/-! ## Command acceptance -/

/-- A legal CMD write decodes by its fields. -/
theorem decodeFields_of_decodeCommand {v : Dword} {i : Instr} (h : decodeCommand v = .legal i) :
    decodeFields (opField v) (eField v) (kField v) (xField v) = .legal i := by
  unfold decodeCommand at h
  split at h
  · cases h
  · split at h
    · cases h
    · exact h

theorem startPhase_ne_idle (i : Instr) : startPhase i ≠ .idle := by cases i <;> simp [startPhase]

theorem startPhase_of_isHash {i : Instr} (h : isHash i = true) : startPhase i = .init := by
  rcases isHash_cases i with hn | ⟨e, rfl⟩
  · rw [hn] at h; cases h
  · cases e <;> rfl

/-- The state in which a legal command begins. -/
theorem State.Inv.startCommand {s : State} {v : Dword} {i : Instr} (hI : s.Inv) (hlive : s.inReset = false)
    (h : decodeCommand v = .legal i) : ((s.noteCommand v).startCommand v i).Inv where
  memForm := hI.memForm
  memBound := hI.memBound
  addrBound := hI.addrBound
  pBound := hI.pBound
  eaddrBound := hI.eaddrBound
  busyPhase := by simp [startPhase_ne_idle]
  hseqBusy := fun _ => rfl
  busyClear := fun _ => ⟨rfl, rfl⟩
  oneEnd := by simp
  errCode := by simp
  errPhase := fun _ => rfl
  ecurCur := rfl
  running := fun _ => ⟨i, decodeFields_of_decodeCommand h, rfl, fun _ => rfl⟩
  progress := fun hq => by
    rw [State.hashProgress, State.startCommand_phase, startPhase_of_isHash hq]
    trivial
  resetIdle := by simp [hlive]

/-- Acceptance, legal or not, of a command by an idle device out of reset. -/
theorem State.Inv.acceptCommand {s : State} (hI : s.Inv) (hlive : s.inReset = false) (hb : s.busy = false) (v : Dword) :
    (s.acceptCommand v).Inv := by
  obtain ⟨hph, hq⟩ := hI.idle hb
  unfold State.acceptCommand
  split
  · exact .of_idle hI.data (by simp [State.FlagInv, State.raiseIllegal]) hb hph hq
  · next i hdec => exact hI.startCommand hlive hdec

/-! ## Host accesses -/

/-- A host write of STATUS while reset is not asserted, whether or not a command runs. -/
theorem hostWrite_status (s : State) (v : Dword) (hlive : s.inReset = false) :
    s.hostWrite .status v = s.writeStatus v := by
  simp [State.hostWrite, hlive, State.storeReg]

theorem hostWrite_busy (s : State) (r : Reg) (v : Dword) (hlive : s.inReset = false) (hb : s.busy = true)
    (hr : r ≠ .status) : s.hostWrite r v = s.setOvr := by
  simp [State.hostWrite, hlive, hb, hr]

theorem hostWrite_idle (s : State) (r : Reg) (v : Dword) (hlive : s.inReset = false) (hb : s.busy = false) :
    s.hostWrite r v = s.storeReg r v := by
  simp [State.hostWrite, hlive, hb]

/-- The whole write-1-to-clear of STATUS (10_state.md R29), flag by flag. -/
theorem writeStatus_eq (s : State) (v : Dword) :
    s.writeStatus v =
      { s with
        done := s.done && !v.getLsbD 1
        err := s.err && !v.getLsbD 2
        ecode := if v.getLsbD 2 then .none else s.ecode
        ephase := if v.getLsbD 2 then .idle else s.ephase
        ovr := s.ovr && !v.getLsbD 3 } := by
  unfold State.writeStatus
  cases v.getLsbD 1 <;> cases v.getLsbD 2 <;> cases v.getLsbD 3 <;>
    simp [State.clearDone, State.clearErr, State.clearOvr]

theorem State.Inv.writeStatus {s : State} (hI : s.Inv) (v : Dword) : (s.writeStatus v).Inv := by
  rw [writeStatus_eq]
  refine hI.congr s _ rfl hI.memory rfl rfl rfl rfl rfl rfl (by simp +contextual) ?_ rfl rfl id rfl rfl
  cases v.getLsbD 2 <;> simp

theorem State.Inv.storeReg {s : State} (hI : s.Inv) (hlive : s.inReset = false) (hb : s.busy = false) (r : Reg)
    (v : Dword) : (s.storeReg r v).Inv := by
  obtain ⟨hph, hq⟩ := hI.idle hb
  have hd := hI.data
  obtain ⟨hmem, haddr, hp, headdr, hecur⟩ := hI.data
  have hv := truncAddr_lt s.params v
  cases r with
  | cmd => exact hI.acceptCommand hlive hb v
  | status => exact hI.writeStatus v
  | addr => exact .of_idle ⟨hmem, hv, hp, headdr, hecur⟩ hI.flags hb hph hq
  | p => exact .of_idle ⟨hmem, haddr, hv, headdr, hecur⟩ hI.flags hb hph hq
  | len | seed | ab | cd | n | w => exact .of_idle hd hI.flags hb hph hq
  | res | eaddr | rsv60 | rsv68 | rsv70 | rsv78 => exact hI

theorem State.Inv.hostWrite {s : State} (hI : s.Inv) (r : Reg) (v : Dword) : (s.hostWrite r v).Inv := by
  unfold State.hostWrite
  split
  · exact hI
  · next hlive =>
    have hlive : s.inReset = false := by simpa using hlive
    split
    · exact hI.outside s.setOvr rfl hI.memory
    · next hdrop =>
      cases hb : s.busy with
      | false => exact hI.storeReg hlive hb r v
      | true =>
        obtain rfl : r = .status := by simpa [hb] using hdrop
        exact hI.writeStatus v

theorem State.Inv.poll {s : State} (hI : s.Inv) : s.poll.Inv := by
  simp only [State.poll]
  split <;> exact hI.outside _ rfl hI.memory

/-! ## Every step -/

/-- A host's store inside the address space keeps memory's canonical form and bound. -/
theorem State.Inv.bufferWrite {s : State} (hI : s.Inv) {x : Nat} (hx : x < s.params.space) (v : Byte) :
    (s.bufferWrite x v).Inv :=
  hI.outside _ rfl ⟨Memory.write_wf _ _ _ hI.memForm, Memory.write_within _ _ _ _ hx hI.memBound⟩

theorem State.Inv.assertReset {s : State} (hI : s.Inv) : s.assertReset.Inv := by
  obtain ⟨-, haddr, hp, headdr, hecur⟩ := (resetWith_inv s.params).data
  exact .of_idle ⟨hI.memory, haddr, hp, headdr, hecur⟩ (resetWith_inv s.params).flags rfl rfl rfl

theorem State.Inv.releaseReset {s : State} (hI : s.Inv) : s.releaseReset.Inv :=
  hI.congr s _ rfl hI.memory rfl rfl rfl rfl rfl rfl id (.inl ⟨rfl, rfl, rfl⟩) rfl rfl nofun rfl rfl

theorem State.Inv.takeTurn {s t : State} (hI : s.Inv) (ev : Event) (h : s.takeTurn ev = .next t) : t.Inv := by
  cases ev with
  | engine => exact hI.engineTurn h
  | regRead r => cases h; exact hI.outside (s.hostRead r) rfl hI.memory
  | regWrite r v => cases h; exact hI.hostWrite r v
  | wait => cases h; exact hI.poll
  | memWrite x v =>
    simp only [State.takeTurn] at h
    split at h
    · next hx => cases h; exact hI.bufferWrite hx v
    · cases h
  | busFail q => cases h; exact hI.outside _ rfl hI.memory
  | busHeal q => cases h; exact hI.outside _ rfl hI.memory
  | assertReset => cases h; exact hI.assertReset
  | releaseReset => cases h; exact hI.releaseReset

/-- Settles O52, by the turn that the step takes: the engine's or that of the next action of host and memory. -/
theorem stepKeepsInvariant : Obligations.StepKeepsInvariant := by
  intro s t hI h
  unfold step at h
  split at h
  · exact hI.engineTurn h
  · next ev es _ => exact (hI.outside { s with schedule := es } rfl hI.memory).takeTurn ev h

/-! ## What an engine step leaves unchanged -/

/-- What the steps of every command end in, HASH's too: an error's report, or the effect `j` of a micro-operation and then
the control state that follows it. -/
theorem exec_outcome {i : Instr} {s t : State} (h : exec i s = .next t) :
    (∃ ph x, t = s.raiseRange ph x) ∨ (∃ ph x q, t = s.raiseBus ph x q) ∨
    ∃ j bs, (j = i ∨ ∃ e ph, i = hashCommand e ∧ microCommand e ph = some j) ∧
      t = { effect j bs s with busy := t.busy, done := t.done, phase := t.phase, hseq := t.hseq } := by
  rcases isHash_cases i with hh | ⟨e, rfl⟩
  · obtain ⟨-, ⟨-, rfl⟩ | ⟨-, x, q, -, rfl⟩ | ⟨-, bs, -, rfl⟩⟩ := exec_cases i s t hh h
    · exact .inl ⟨_, _, rfl⟩
    · exact .inr (.inl ⟨_, _, _, rfl⟩)
    · exact .inr (.inr ⟨i, bs, .inl rfl, rfl⟩)
  · obtain ⟨j, hc, ⟨-, rfl⟩ | ⟨-, x, q, -, rfl⟩ | ⟨-, bs, -, rfl⟩⟩ := hash_cases e s t h
    · exact .inl ⟨_, _, rfl⟩
    · exact .inr (.inl ⟨_, _, _, rfl⟩)
    · refine .inr (.inr ⟨j, bs, .inr ⟨e, _, rfl, hc⟩, ?_⟩)
      rw [hashAdvance_eq]
      split <;> rfl

/-- Settles O42: an error writes flags and EADDR, and the effect of a micro-operation writes none of these fields. -/
theorem engineNeverWritesInputsOrMemory : Obligations.EngineNeverWritesInputsOrMemory := by
  intro i s t h
  obtain ⟨ph, x, rfl⟩ | ⟨ph, x, q, rfl⟩ | ⟨j, bs, -, ht⟩ := exec_outcome h
  · exact ⟨rfl, rfl, rfl, rfl, rfl, rfl, rfl, rfl, rfl, rfl, rfl, rfl, rfl, fun _ => rfl⟩
  · exact ⟨rfl, rfl, rfl, rfl, rfl, rfl, rfl, rfl, rfl, rfl, rfl, rfl, rfl, fun _ => rfl⟩
  · rw [ht]
    simp [effect_frame s j bs]

/-- `s` with the fields that a tail step writes taken from `w`: A, B, P, N, and the account of the reads. -/
def State.withTailOf (s w : State) : State :=
  { s with a := w.a, b := w.b, p := w.p, n := w.n, alignbuf := w.alignbuf, freeIx := w.freeIx, reads := w.reads }

/-- A word-reading tail step whose mix writes A and B writes those fields alone. -/
theorem tailEffect_withTailOf (lo : Nat) (mix : Word → State → State)
    (hmix : ∀ v t, mix v t = t.setAB (mix v t).a (mix v t).b) (e : ByteOrder) (bs : List Byte) (s : State) :
    tailEffect lo mix e bs s = s.withTailOf (tailEffect lo mix e bs s) := by
  unfold tailEffect
  split
  · rfl
  · rw [hmix]; rfl

/-- TAIL.Q1 too. -/
theorem tailQ1Effect_withTailOf (e : ByteOrder) (bs : List Byte) (s : State) :
    tailQ1Effect e bs s = s.withTailOf (tailQ1Effect e bs s) := by
  unfold tailQ1Effect
  split <;> rfl

/-- The tail steps. -/
def isTail : Instr → Bool
  | .tailQ4Le | .tailQ4Be | .tailQ3Le | .tailQ3Be | .tailQ2Le | .tailQ2Be | .tailQ1Le | .tailQ1Be => true
  | .hashLe | .hashBe | .init | .bulkSetup | .bulkBlockLe | .bulkBlockBe | .bulkFold | .remix | .fetch32Le | .fetch32Be
  | .tail32Le | .tail32Be | .mixupAb _ | .mixupBa _ => false

theorem effect_withTailOf (i : Instr) (bs : List Byte) (s : State) (h : isTail i = true) :
    effect i bs s = s.withTailOf (effect i bs s) := by
  cases i with
  | tailQ4Le | tailQ4Be => exact tailEffect_withTailOf 13 (fun v t => t.mixAB v s.params.q[4]) (fun _ _ => rfl) _ bs s
  | tailQ3Le | tailQ3Be => exact tailEffect_withTailOf 9 (fun v t => t.mixBA v s.params.q[3]) (fun _ _ => rfl) _ bs s
  | tailQ2Le | tailQ2Be => exact tailEffect_withTailOf 5 (fun v t => t.mixAB v s.params.q[2]) (fun _ _ => rfl) _ bs s
  | tailQ1Le | tailQ1Be => exact tailQ1Effect_withTailOf _ bs s
  | _ => cases h

/-- A tail step writes none of W, RES, C and D. -/
theorem effect_tail (i : Instr) (bs : List Byte) (s : State) (h : isTail i = true) :
    (effect i bs s).w = s.w ∧ (effect i bs s).res = s.res ∧ (effect i bs s).c = s.c ∧ (effect i bs s).d = s.d := by
  rw [effect_withTailOf i bs s h]
  exact ⟨rfl, rfl, rfl, rfl⟩

section Effect
variable (i : Instr) (bs : List Byte) (s : State)

/-- W (10_state.md R24). -/
theorem effect_w (h : i ∉ [Instr.fetch32Le, .fetch32Be, .tail32Le, .tail32Be]) : (effect i bs s).w = s.w := by
  cases i with
  | tailQ4Le | tailQ4Be | tailQ3Le | tailQ3Be | tailQ2Le | tailQ2Be | tailQ1Le | tailQ1Be =>
    exact (effect_tail _ bs s rfl).1
  | fetch32Le | fetch32Be | tail32Le | tail32Be => simp at h
  | _ => rfl

/-- RES (R26). -/
theorem effect_res (h : i ∉ [Instr.remix, .hashLe, .hashBe]) : (effect i bs s).res = s.res := by
  cases i with
  | tailQ4Le | tailQ4Be | tailQ3Le | tailQ3Be | tailQ2Le | tailQ2Be | tailQ1Le | tailQ1Be =>
    exact (effect_tail _ bs s rfl).2.1
  | remix => simp at h
  | _ => rfl

/-- C and D (R23). -/
theorem effect_cd (h : i ∉ [Instr.bulkSetup, .bulkBlockLe, .bulkBlockBe, .bulkFold, .hashLe, .hashBe]) :
    (effect i bs s).c = s.c ∧ (effect i bs s).d = s.d := by
  cases i with
  | tailQ4Le | tailQ4Be | tailQ3Le | tailQ3Be | tailQ2Le | tailQ2Be | tailQ1Le | tailQ1Be =>
    exact (effect_tail _ bs s rfl).2.2
  | bulkSetup | bulkBlockLe | bulkBlockBe | bulkFold => simp at h
  | _ => exact ⟨rfl, rfl⟩

/-- P and N (R25). -/
theorem effect_pn (h : i ∉ [Instr.init, .bulkBlockLe, .bulkBlockBe, .tailQ4Le, .tailQ4Be, .tailQ3Le, .tailQ3Be,
    .tailQ2Le, .tailQ2Be, .tailQ1Le, .tailQ1Be, .hashLe, .hashBe]) :
    (effect i bs s).p = s.p ∧ (effect i bs s).n = s.n := by
  cases i with
  | bulkSetup | bulkFold | remix | fetch32Le | fetch32Be | tail32Le | tail32Be | mixupAb | mixupBa => exact ⟨rfl, rfl⟩
  | _ => simp at h

/-- A (R22). -/
theorem effect_a (h : i ∈ [Instr.bulkSetup, .fetch32Le, .fetch32Be, .tail32Le, .tail32Be]) : (effect i bs s).a = s.a := by
  cases i with
  | bulkSetup | fetch32Le | fetch32Be | tail32Le | tail32Be => rfl
  | _ => simp at h

/-- B (R22). -/
theorem effect_b (h : i ∈ [Instr.bulkSetup, .remix, .fetch32Le, .fetch32Be, .tail32Le, .tail32Be]) :
    (effect i bs s).b = s.b := by
  cases i with
  | bulkSetup | remix | fetch32Le | fetch32Be | tail32Le | tail32Be => rfl
  | _ => simp at h

end Effect

/-- No micro-operation of HASH writes W. -/
theorem microCommand_not_mem_fetch {e : ByteOrder} {ph : Phase} {j : Instr} (h : microCommand e ph = some j) :
    j ∉ [Instr.fetch32Le, .fetch32Be, .tail32Le, .tail32Be] := by
  cases ph <;> cases e <;> cases h <;> decide

/-- Settles O43, register by register; the step of HASH has the effect of a micro-operation, none of which writes W. -/
theorem registerFrames : Obligations.RegisterFrames := by
  intro i s t h
  obtain ⟨ph, x, rfl⟩ | ⟨ph, x, q, rfl⟩ | ⟨j, bs, hj, ht⟩ := exec_outcome h
  · exact ⟨fun _ => rfl, fun _ => rfl, fun _ => ⟨rfl, rfl⟩, fun _ => ⟨rfl, rfl⟩, fun _ => rfl, fun _ => rfl⟩
  · exact ⟨fun _ => rfl, fun _ => rfl, fun _ => ⟨rfl, rfl⟩, fun _ => ⟨rfl, rfl⟩, fun _ => rfl, fun _ => rfl⟩
  · rw [ht]
    obtain rfl | ⟨e, ph, rfl, hc⟩ := hj
    · exact ⟨effect_w j bs s, effect_res j bs s, effect_cd j bs s, effect_pn j bs s, effect_a j bs s, effect_b j bs s⟩
    · refine ⟨fun _ => effect_w j bs s (microCommand_not_mem_fetch hc), ?_, ?_, ?_, ?_, ?_⟩ <;>
        cases e <;> simp [hashCommand]

/-! ## The register port -/

/-- A field of STATUS (10_state.md R29) read at its own place. -/
theorem extractLsb'_shiftLeft_same {m : Nat} (x : BitVec m) (i : Nat) (h : i + m ≤ 64) :
    (x.setWidth 64 <<< i).extractLsb' i m = x := by
  ext k hk
  have h1 : i + k < 64 := by omega
  simp [h1, BitVec.getLsbD_eq_getElem hk]

/-- A field read at a place that it does not reach. -/
theorem extractLsb'_shiftLeft_apart {m : Nat} (x : BitVec m) (i j n : Nat) (h : j + n ≤ i ∨ i + m ≤ j) :
    (x.setWidth 64 <<< i).extractLsb' j n = 0 := by
  ext k hk
  rcases h with hbelow | habove
  · simp [show j + k < i by omega]
  · simp [BitVec.getLsbD_of_ge x (j + k - i) (by omega)]

/-- The fields of STATUS as read: at each place one field is whole and all others are apart. -/
theorem statusWord_fields (s : State) :
    s.statusWord.extractLsb' 0 1 = BitVec.ofBool s.busy ∧ s.statusWord.extractLsb' 1 1 = BitVec.ofBool s.done ∧
    s.statusWord.extractLsb' 2 1 = BitVec.ofBool s.err ∧ s.statusWord.extractLsb' 3 1 = BitVec.ofBool s.ovr ∧
    s.statusWord.extractLsb' 4 4 = s.ecode.code ∧ s.statusWord.extractLsb' 8 4 = s.phase.code ∧
    s.statusWord.extractLsb' 12 1 = BitVec.ofBool s.hseq ∧ s.statusWord.extractLsb' 13 1 = BitVec.ofBool s.ecur ∧
    s.statusWord.extractLsb' 14 2 = 0 ∧ s.statusWord.extractLsb' 16 4 = s.ephase.code ∧
    s.statusWord.extractLsb' 20 44 = 0 := by
  simp [State.statusWord, flagAt, fieldAt, BitVec.extractLsb'_or, extractLsb'_shiftLeft_same, extractLsb'_shiftLeft_apart,
    -BitVec.shiftLeft_zero]

/-- Settles O11: STATUS is the disjunction of its fields, each at a place of its own, and its write is `writeStatus_eq`. -/
theorem statusReadAndWrite : Obligations.StatusReadAndWrite := fun s v =>
  ⟨statusWord_fields s, fun hlive => by rw [hostWrite_status s v hlive, writeStatus_eq]⟩

/-- Settles O12: the write is dropped, and the step takes it off the schedule. -/
theorem writeWhileBusyIsDropped : Obligations.WriteWhileBusyIsDropped := by
  intro s r v es hb hlive hr
  exact congrArg Host.Outcome.next (hostWrite_busy { s with schedule := es } r v hlive hb hr)

/-- `{hi, lo}` (00_scope.md R10). -/
theorem pair64_eq_append (hi lo : Word) : pair64 hi lo = hi ++ lo := by
  rw [BitVec.append_def, BitVec.shiftLeftZeroExtend_eq, BitVec.setWidth'_eq]
  rfl

/-- Settles O13, slot by slot. -/
theorem hostReadReturnsRegister : Obligations.HostReadReturnsRegister := by
  intro s es hlive
  refine ⟨fun r => ?_, rfl, rfl, rfl, rfl, pair64_eq_append _ _, pair64_eq_append _ _, rfl, rfl, rfl, rfl, rfl, rfl, rfl,
    rfl, rfl⟩
  show Host.Outcome.next (State.hostRead r { s with schedule := es }) = _
  simp only [State.hostRead, State.portValue, hlive]
  rfl

/-- Settles O14, slot by slot. -/
theorem hostWriteStoresRegister : Obligations.HostWriteStoresRegister := by
  intro s v hlive hb
  simp only [hostWrite_idle s _ v hlive hb]
  refine ⟨rfl, rfl, rfl, rfl, rfl, rfl, rfl, rfl, fun r hr => ?_⟩
  fin_cases hr <;> rfl

/-! ## The host's stores -/

/-- Settles O50, by the laws of `Memory.write`. -/
theorem hostStoresByte : Obligations.HostStoresByte := by
  intro s x v es
  constructor
  · intro hx
    refine ⟨State.bufferWrite x v { s with schedule := es }, if_pos hx, ?_, ?_, ?_⟩
    · exact Memory.read_write_same s.mem x v
    · exact fun y hy => Memory.read_write_other s.mem x y v hy
    · exact Memory.write_wf s.mem x v
  · exact fun hx => if_neg (Nat.not_lt.2 hx)

end Sys2Proof.Machine

/-!
Reads of the buffer memory (20_memory.md): the words they make, the requests they issue, and the values they return.
-/

namespace Sys2Proof.Machine

/-! ## The word of four bytes -/

/-- A byte appended at the low end of a vector, as shift and disjunction in a word. -/
theorem setWidth_append_byte {n : Nat} (hi : BitVec n) (lo : Byte) :
    (hi ++ lo).setWidth 32 = hi.setWidth 32 <<< 8 ||| lo.setWidth 32 := by
  ext k hk
  by_cases h : k < 8
  · simp [BitVec.getLsbD_append, h, BitVec.getLsbD_eq_getElem]
  · simp [BitVec.getLsbD_append, h, BitVec.getLsbD_of_ge lo k (by omega)]

/-- The concatenation of four bytes, the most significant first, as the disjunction that `assembleWord` makes. -/
theorem append_eq_shiftLeft_or (x3 x2 x1 x0 : Byte) :
    x3 ++ x2 ++ x1 ++ x0 =
      x3.setWidth 32 <<< 24 ||| x2.setWidth 32 <<< 16 ||| x1.setWidth 32 <<< 8 ||| x0.setWidth 32 := by
  have h : (x3 ++ x2 ++ x1 ++ x0).setWidth 32 =
      ((x3.setWidth 32 <<< 8 ||| x2.setWidth 32) <<< 8 ||| x1.setWidth 32) <<< 8 ||| x0.setWidth 32 := by
    rw [setWidth_append_byte, setWidth_append_byte, setWidth_append_byte]
  rw [BitVec.shiftLeft_or_distrib, BitVec.shiftLeft_or_distrib, BitVec.shiftLeft_or_distrib, ← BitVec.shiftLeft_add,
    ← BitVec.shiftLeft_add, ← BitVec.shiftLeft_add] at h
  exact (BitVec.setWidth_eq _).symm.trans h

/-- Settles O21: both orders make a disjunction of shifted bytes, and so does concatenation. -/
theorem wordByteOrder : Obligations.WordByteOrder := by
  intro b0 b1 b2 b3
  constructor
  · rw [append_eq_shiftLeft_or]
    show b0.setWidth 32 ||| b1.setWidth 32 <<< 8 ||| b2.setWidth 32 <<< 16 ||| b3.setWidth 32 <<< 24 = _
    rw [BitVec.or_comm _ (b3.setWidth 32 <<< 24), BitVec.or_comm _ (b2.setWidth 32 <<< 16),
      BitVec.or_comm _ (b1.setWidth 32 <<< 8), ← BitVec.or_assoc, ← BitVec.or_assoc]
  · exact (append_eq_shiftLeft_or b0 b1 b2 b3).symm

/-! ## The requests come in order -/

/-- Each request ends before the next begins. -/
def inOrder (qs : List Request) : Prop := qs.Pairwise fun q r => q.addr + q.size ≤ r.addr

theorem inOrder_nil : inOrder [] := List.Pairwise.nil

theorem inOrder_ite {c : Prop} [Decidable c] {qs : List Request} (h : inOrder qs) : inOrder (if c then qs else []) := by
  split
  · exact h
  · exact inOrder_nil

theorem byteRequests_inOrder (x n : Nat) : inOrder (byteRequests x n) := by
  induction n generalizing x with
  | zero => exact inOrder_nil
  | succ n ih => exact List.Pairwise.cons (fun r hr => ((mem_byteRequests (x + 1) n r).1 hr).2.1) (ih (x + 1))

theorem wordRequests_inOrder (p : Params) (x : Nat) : inOrder (wordRequests p x) := by
  unfold wordRequests
  split
  · exact byteRequests_inOrder x 4
  · exact List.pairwise_singleton _ _

theorem tailRequests_inOrder (p : Params) (x n : Nat) : inOrder (tailRequests p x n) := by
  unfold tailRequests
  split
  · exact wordRequests_inOrder p x
  · exact byteRequests_inOrder x n

/-- The requests come in order, and all end at or below `y`. -/
def inOrderUpTo (y : Nat) (qs : List Request) : Prop := inOrder qs ∧ ∀ q ∈ qs, q.addr + q.size ≤ y

theorem inOrderUpTo_nil (y : Nat) : inOrderUpTo y [] := ⟨inOrder_nil, fun _ hq => absurd hq List.not_mem_nil⟩

/-- The word at `y` after requests that end there. -/
theorem inOrderUpTo.append_word {y : Nat} {qs : List Request} (h : inOrderUpTo y qs) (p : Params) :
    inOrderUpTo (y + 4) (qs ++ wordRequests p y) := by
  obtain ⟨horder, hend⟩ := h
  have hword (r : Request) (hr : r ∈ wordRequests p y) : y ≤ r.addr ∧ r.addr + r.size ≤ y + 4 := by
    obtain ⟨hlo, hhi, -⟩ := mem_wordRequests p y r hr
    exact ⟨hlo, hhi⟩
  refine ⟨List.pairwise_append.2 ⟨horder, wordRequests_inOrder p y, fun q hq r hr => ?_⟩, fun q hq => ?_⟩
  · exact (hend q hq).trans (hword r hr).1
  · obtain hq | hq := List.mem_append.1 hq
    · exact (hend q hq).trans (Nat.le_add_right y 4)
    · exact (hword q hq).2

theorem blockRequests_inOrder (p : Params) (x : Nat) : inOrder (blockRequests p x) :=
  ((((inOrderUpTo_nil x).append_word p).append_word p).append_word p |>.append_word p).1

theorem requestsOf_inOrder (i : Instr) (s : State) : inOrder (requestsOf i s) := by
  cases i with
  | bulkBlockLe | bulkBlockBe => exact blockRequests_inOrder s.params s.p.toNat
  | tailQ4Le | tailQ4Be | tailQ3Le | tailQ3Be | tailQ2Le | tailQ2Be =>
    exact inOrder_ite (wordRequests_inOrder s.params s.p.toNat)
  | tailQ1Le | tailQ1Be => exact inOrder_ite (tailRequests_inOrder s.params s.p.toNat s.n.toNat)
  | fetch32Le | fetch32Be => exact wordRequests_inOrder s.params s.p.toNat
  | tail32Le | tail32Be => exact tailRequests_inOrder s.params s.p.toNat s.n.toNat
  | hashLe | hashBe | init | bulkSetup | bulkFold | remix | mixupAb | mixupBa => exact inOrder_nil

/-! ## The requests of a step -/

/-- What a failing issue leaves in the history is the first part of what was to be issued (20_memory.md R59). -/
theorem issue_bus_prefix {s : State} {qs issued : List Request} {a : Nat} (h : s.issue qs = .bus a issued) :
    issued <+: qs := by
  obtain ⟨before, q, after, rfl, rfl, -⟩ := issue_bus_split s qs a issued h
  exact ⟨after, by simp⟩

theorem hashAdvance_reads (ph : Phase) (s : State) : (hashAdvance ph s).reads = s.reads := by
  rw [hashAdvance_eq]
  split <;> rfl

/-- The requests of a step are the first part of those of the micro-operation that it runs, and there are none unless its
bound check held. For HASH it is the micro-operation of its phase. -/
theorem exec_requests {i : Instr} {s t : State} (h : exec i s = .next t) :
    ∃ j new, (j = i ∨ ∃ e, i = hashCommand e ∧ microCommand e s.phase = some j) ∧ t.reads = s.reads ++ new ∧
      new <+: requestsOf j s ∧ (new ≠ [] → ¬rangeFails j s) := by
  rcases isHash_cases i with hh | ⟨e, rfl⟩
  · obtain ⟨-, ⟨-, rfl⟩ | ⟨hr, x, q, hq, rfl⟩ | ⟨hr, bs, -, rfl⟩⟩ := exec_cases i s t hh h
    · exact ⟨i, [], .inl rfl, (List.append_nil _).symm, List.nil_prefix, fun hne => absurd rfl hne⟩
    · exact ⟨i, q, .inl rfl, rfl, issue_bus_prefix hq, fun _ => hr⟩
    · exact ⟨i, requestsOf i s, .inl rfl, effect_reads i bs s, List.prefix_rfl, fun _ => hr⟩
  · obtain ⟨j, hj, ⟨-, rfl⟩ | ⟨hr, x, q, hq, rfl⟩ | ⟨hr, bs, -, rfl⟩⟩ := hash_cases e s t h
    · exact ⟨j, [], .inr ⟨e, rfl, hj⟩, (List.append_nil _).symm, List.nil_prefix, fun hne => absurd rfl hne⟩
    · exact ⟨j, q, .inr ⟨e, rfl, hj⟩, rfl, issue_bus_prefix hq, fun _ => hr⟩
    · exact ⟨j, requestsOf j s, .inr ⟨e, rfl, hj⟩, by rw [hashAdvance_reads, effect_reads], List.prefix_rfl,
        fun _ => hr⟩

/-- Settles O46: the bound check of the micro-operation holds, and its requests lie in what it bounds, in order. -/
theorem readsStayInsideBuffer : Obligations.ReadsStayInsideBuffer := by
  intro i s t h
  obtain ⟨j, new, -, hreads, hprefix, hbound⟩ := exec_requests h
  exact ⟨new, hreads, (requestsOf_inOrder j s).sublist hprefix.sublist, fun q hq =>
    mem_requestsOf j s (hbound (List.ne_nil_of_mem hq)) q (hprefix.subset hq)⟩

/-! ## The requests of HASH -/

/-- After INIT a running HASH stands on its buffer (43_hash_sequence.md R163, R164). -/
theorem State.Inv.onBuffer {s : State} (hI : s.Inv) (hq : s.hseq = true) (hne : s.phase ≠ .init) : s.onBuffer := by
  have h := hI.progress hq
  unfold State.hashProgress at h
  cases hph : s.phase <;> rw [hph] at h
  case init => exact absurd hph hne
  case idle | fetch32 | tail32 | mixup => exact h.elim
  all_goals exact h.1

/-- While bytes remain, [P, P+N) is the end of [ADDR, ADDR+LEN), with no wrap (20_memory.md R54). -/
theorem State.onBuffer.bounds {s : State} (h : s.onBuffer) (hn : 0 < s.n.toNat) :
    s.addr.toNat ≤ s.p.toNat ∧ s.p.toNat + s.n.toNat = s.addr.toNat + s.len.toNat := by
  obtain ⟨hspace, hle, hp⟩ := h
  rw [Nat.mod_eq_of_lt (by omega)] at hp
  omega

/-- INIT inside HASH reads nothing (20_memory.md R55). -/
theorem hash_init_reads {e : ByteOrder} {s t : State} (hph : s.phase = .init) (h : exec (hashCommand e) s = .next t) :
    t.reads = s.reads := by
  obtain ⟨j, new, hj, hreads, hprefix, -⟩ := exec_requests h
  have hnone : requestsOf j s = [] := by
    obtain rfl | ⟨e', -, hc⟩ := hj
    · cases e <;> rfl
    · rw [hph] at hc; cases hc; rfl
  rw [hnone, List.prefix_nil] at hprefix
  rw [hreads, hprefix, List.append_nil]

/-- Settles O47: INIT reads nothing, and after it the requests lie in [P, P+N), which is inside the buffer. -/
theorem hashReadsStayInsideItsBuffer : Obligations.HashReadsStayInsideItsBuffer := by
  intro e s t hI hq h
  by_cases hph : s.phase = .init
  · exact ⟨[], by rw [hash_init_reads hph h, List.append_nil], fun _ hmem => absurd hmem List.not_mem_nil⟩
  · obtain ⟨new, hreads, -, hin⟩ := readsStayInsideBuffer _ s t h
    refine ⟨new, hreads, fun q hmem => ?_⟩
    obtain ⟨hlo, hhi, -, hsize⟩ := hin q hmem
    obtain ⟨haddr, hend⟩ := (hI.onBuffer hq hph).bounds (by omega)
    omega

/-! ## FETCH32 of delivered bytes -/

/-- FETCH32 whose bound check holds, of bytes that the memory delivers, completes with their word, whatever requests it
takes to read them. -/
theorem exec_fetchCommand_w (e : ByteOrder) {s : State} {bs : List Byte} (hlen : bs.length = 4) (hn : 4 ≤ s.n.toNat)
    (hp : s.p.toNat + 4 ≤ s.params.space) (hd : s.delivers s.p.toNat bs) :
    ∃ t, exec (fetchCommand e) s = .next t ∧ t.w = assembleWord e bs := by
  have hr : ¬(s.n.toNat < 4 ∨ s.p.toNat + 4 > s.params.space) := by omega
  have hi := issue_wordRequests s s.params s.p.toNat bs hd hlen
  cases e with
  | little => exact ⟨_, exec_ok .fetch32Le s rfl rfl hr bs _ hi, rfl⟩
  | big => exact ⟨_, exec_ok .fetch32Be s rfl rfl hr bs _ hi, rfl⟩

/-- Settles O48: both commands complete with the word of the same bytes. -/
theorem fetchIndependentOfAlignment : Obligations.FetchIndependentOfAlignment := by
  intro e s u bs hlen hsn hsp hsd hun hup hud
  obtain ⟨s', hs, hsw⟩ := exec_fetchCommand_w e hlen hsn hsp hsd
  obtain ⟨u', hu, huw⟩ := exec_fetchCommand_w e hlen hun hup hud
  exact ⟨s', u', hs, hu, hsw.trans huw.symm⟩

/-! ## The values of byte reads -/

theorem mem_heldAt (held : List (Nat × Byte)) (x : Nat) (v : Byte) : v ∈ heldAt held x ↔ (x, v) ∈ held := by
  simp only [heldAt, List.mem_filterMap]
  constructor
  · rintro ⟨⟨y, w⟩, hy, h⟩
    split at h
    · next hyx => cases h; cases hyx; exact hy
    · cases h
  · exact fun h => ⟨(x, v), h, if_pos rfl⟩

theorem byteAt_of_no_byte {s : State} {x : Nat} (h : Memory.read s.mem x = none) : s.byteAt x = none := by
  simp [State.byteAt, h]

/-- Whatever the free value chooses, a byte read returns the byte's value or one held earlier in the command. -/
theorem mem_of_byteAt {s : State} {x : Nat} {v : Byte} (h : s.byteAt x = some v) :
    ∃ w, Memory.read s.mem x = some w ∧ v ∈ w :: heldAt s.held x := by
  unfold State.byteAt at h
  split at h
  · cases h
  · next w hw =>
    refine ⟨w, hw, ?_⟩
    split at h
    · cases h; exact List.mem_cons_self
    · cases h
      have hlt : Config.raceChoice s.freeIx x % ((heldAt s.held x).length + 1) < (w :: heldAt s.held x).length :=
        Nat.mod_lt _ (Nat.succ_pos _)
      rw [List.getD_eq_getElem _ _ hlt]
      exact List.getElem_mem _

/-- Acceptance of a legal command starts with no byte changed (20_memory.md R63). -/
theorem acceptCommand_held {v : Dword} {i : Instr} (h : decodeCommand v = .legal i) (s : State) :
    (s.acceptCommand v).held = [] := by
  simp [State.acceptCommand, h]

/-- Settles O49: the free value only picks from a list of the byte's value and the ones it replaced. -/
theorem byteReadsReturnHeldValues : Obligations.ByteReadsReturnHeldValues := by
  intro s x
  refine ⟨fun hunchanged => ?_, fun v hv => ?_, fun v old hb hold => ?_, fun v hb => ?_,
    fun v i hdec => acceptCommand_held hdec s⟩
  · cases hm : Memory.read s.mem x with
    | none => exact byteAt_of_no_byte hm
    | some v => exact byteAt_of_delivers s x v hm hunchanged
  · obtain ⟨w, hw, hmem⟩ := mem_of_byteAt hv
    obtain rfl | hheld := List.mem_cons.1 hmem
    · exact .inl hw
    · exact .inr ((mem_heldAt s.held x v).1 hheld)
  · simp [State.bufferWrite, hb, hold]
  · simp [State.bufferWrite, hb]

end Sys2Proof.Machine

/-!
The encoding of commands (30_encoding.md). A CMD write is the six fields of R80 and R81 side by side, so it is known by them;
the operation map, inverted field by field, then gives both round trips and the illegal words.
-/

namespace Sys2Proof.Machine

/-! ## The fields of a CMD write as numbers -/

section Fields
variable (v : Dword)

theorem opField_toNat : (opField v).toNat = v.toNat % 2 ^ 4 := by
  rw [opField, BitVec.extractLsb'_toNat, Nat.shiftRight_zero]

theorem eField_toNat : (eField v).toNat = v.toNat / 2 ^ 4 % 2 := by
  rw [eField, BitVec.getLsbD, Nat.toNat_testBit]

theorem kField_toNat : (kField v).toNat = v.toNat / 2 ^ 5 % 2 ^ 3 := by
  rw [kField, BitVec.extractLsb'_toNat, Nat.shiftRight_eq_div_pow]

theorem xField_toNat : (xField v).toNat = v.toNat / 2 ^ 8 % 2 := by
  rw [xField, BitVec.getLsbD, Nat.toNat_testBit]

theorem rsvField_toNat : (rsvField v).toNat = v.toNat / 2 ^ 9 % 2 ^ 7 := by
  rw [rsvField, BitVec.extractLsb'_toNat, Nat.shiftRight_eq_div_pow]

theorem upperField_toNat : (upperField v).toNat = v.toNat / 2 ^ 16 := by
  have := v.isLt
  rw [upperField, BitVec.extractLsb'_toNat, Nat.shiftRight_eq_div_pow, Nat.mod_eq_of_lt (by omega)]

end Fields

/-- The fields OP, E, K and X of a CMD write, as acceptance latches them in CUR (10_state.md R28). -/
def commandFields (v : Dword) : Cur := ⟨opField v, eField v, kField v, xField v⟩

/-- A CMD write as the number its fields make: R80 and R81 leave no bit out. -/
theorem toNat_eq_fields (v : Dword) :
    v.toNat = (opField v).toNat + 2 ^ 4 * (eField v).toNat + 2 ^ 5 * (kField v).toNat + 2 ^ 8 * (xField v).toNat +
      2 ^ 9 * (rsvField v).toNat + 2 ^ 16 * (upperField v).toNat := by
  rw [opField_toNat, eField_toNat, kField_toNat, xField_toNat, rsvField_toNat, upperField_toNat]
  omega

theorem eq_of_fields {v w : Dword} (hf : commandFields v = commandFields w) (hr : rsvField v = rsvField w)
    (hu : upperField v = upperField w) : v = w := by
  obtain ⟨hop, he, hk, hx⟩ := Cur.mk.inj hf
  apply BitVec.eq_of_toNat_eq
  rw [toNat_eq_fields v, toNat_eq_fields w, hop, he, hk, hx, hr, hu]

/-! ## The fields of a command's word -/

theorem upperField_commandValue (i : Instr) : upperField (commandValue i) = 0 := by
  apply BitVec.eq_of_toNat_eq
  have := (encode i).isLt
  rw [upperField_toNat, commandValue, BitVec.toNat_setWidth_of_le (by decide)]
  exact Nat.div_eq_of_lt this

theorem rsvField_commandValue (i : Instr) : rsvField (commandValue i) = 0 := by
  cases i
  case mixupAb k => revert k; decide
  case mixupBa k => revert k; decide
  all_goals rfl

theorem commandFields_mixupAb (k : BitVec 3) : commandFields (commandValue (.mixupAb k)) = ⟨0xD, false, k, false⟩ := by
  revert k; decide

theorem commandFields_mixupBa (k : BitVec 3) : commandFields (commandValue (.mixupBa k)) = ⟨0xD, false, k, true⟩ := by
  revert k; decide

/-! ## The operation map, inverted -/

section OperationMap
variable {op : BitVec 4} {e : Bool} {k : BitVec 3} {x : Bool} {i : Instr}

theorem decodeOrdered_eq_legal {le be : Instr} :
    decodeOrdered e k x le be = .legal i ↔ k = 0 ∧ x = false ∧ i = if e then be else le := by
  unfold decodeOrdered
  split <;> grind

theorem decodeFree_eq_legal {j : Instr} :
    decodeFree e k x j = .legal i ↔ k = 0 ∧ x = false ∧ e = false ∧ i = j := by
  unfold decodeFree
  split <;> grind

theorem decodeMixup_eq_legal :
    decodeMixup e k x = .legal i ↔ e = false ∧ k ≠ 7 ∧ i = if x then .mixupBa k else .mixupAb k := by
  unfold decodeMixup
  split <;> grind

theorem eq_ofNat_of_toNat {m : Nat} (h : op.toNat = m) : op = BitVec.ofNat 4 m := by
  rw [← h, BitVec.ofNat_toNat, BitVec.setWidth_eq]

/-- Fields that decode to a command are those of its word, and the command is well-formed. -/
theorem fields_of_decodeFields (h : decodeFields op e k x = .legal i) :
    i.wf = true ∧ commandFields (commandValue i) = ⟨op, e, k, x⟩ := by
  unfold decodeFields at h
  split at h
  case h_14 => cases h
  case h_13 hop =>
    obtain rfl := eq_ofNat_of_toNat hop
    obtain ⟨rfl, hk, rfl⟩ := decodeMixup_eq_legal.1 h
    cases x
    · exact ⟨bne_iff_ne.2 hk, commandFields_mixupAb k⟩
    · exact ⟨bne_iff_ne.2 hk, commandFields_mixupBa k⟩
  case h_2 hop | h_3 hop | h_5 hop | h_10 hop =>
    obtain ⟨rfl, rfl, rfl, rfl⟩ := decodeFree_eq_legal.1 h
    obtain rfl := eq_ofNat_of_toNat hop
    exact ⟨rfl, rfl⟩
  all_goals
    rename_i hop
    obtain ⟨rfl, rfl, rfl⟩ := decodeOrdered_eq_legal.1 h
    obtain rfl := eq_ofNat_of_toNat hop
    cases e
    · exact ⟨rfl, rfl⟩
    · exact ⟨rfl, rfl⟩

/-- The operation map answers a command exactly for the fields of its word. -/
theorem decodeFields_eq_legal :
    decodeFields op e k x = .legal i ↔ i.wf = true ∧ commandFields (commandValue i) = ⟨op, e, k, x⟩ := by
  refine ⟨fields_of_decodeFields, fun ⟨hw, h⟩ => ?_⟩
  cases i
  case mixupAb k =>
    rw [commandFields_mixupAb] at h
    cases h
    exact decodeMixup_eq_legal.2 ⟨rfl, bne_iff_ne.1 hw, rfl⟩
  case mixupBa k =>
    rw [commandFields_mixupBa] at h
    cases h
    exact decodeMixup_eq_legal.2 ⟨rfl, bne_iff_ne.1 hw, rfl⟩
  all_goals
    cases h
    rfl

end OperationMap

/-- A CMD write is legal by its fields. -/
theorem decodeCommand_eq_legal {v : Dword} {i : Instr} :
    decodeCommand v = .legal i ↔
      upperField v = 0 ∧ rsvField v = 0 ∧ decodeFields (opField v) (eField v) (kField v) (xField v) = .legal i := by
  unfold decodeCommand
  by_cases hu : upperField v = 0
  · by_cases hr : rsvField v = 0
    · simp [hu, hr]
    · rw [if_neg (not_not.2 hu), if_pos hr]
      exact iff_of_false nofun fun h => hr h.2.1
  · rw [if_pos hu]
    exact iff_of_false nofun fun h => hu h.1

/-! ## The round trips -/

/-- Settles O2: the word's unused bits are 0, and its fields decode to the command. -/
theorem decodeOfEncode : Obligations.DecodeOfEncode := fun i hw =>
  decodeCommand_eq_legal.2 ⟨upperField_commandValue i, rsvField_commandValue i, decodeFields_eq_legal.2 ⟨hw, rfl⟩⟩

/-- Settles O3: the value and the command's word agree in every field. -/
theorem encodeOfDecode : Obligations.EncodeOfDecode := by
  intro v i h
  obtain ⟨hu, hr, hf⟩ := decodeCommand_eq_legal.1 h
  obtain ⟨hw, hfields⟩ := decodeFields_eq_legal.1 hf
  exact ⟨hw, eq_of_fields hfields (by rw [rsvField_commandValue, hr]) (by rw [upperField_commandValue, hu])⟩

/-- Settles O1: the words are those of the encoder. -/
theorem specWordsDecode : Obligations.SpecWordsDecode :=
  ⟨decodeOfEncode .hashLe rfl, decodeOfEncode .hashBe rfl, decodeOfEncode .init rfl, decodeOfEncode .bulkSetup rfl,
    decodeOfEncode .bulkBlockBe rfl, decodeOfEncode .bulkFold rfl, decodeOfEncode .tailQ4Le rfl,
    decodeOfEncode .tailQ3Be rfl, decodeOfEncode .tailQ2Le rfl, decodeOfEncode .tailQ1Be rfl, decodeOfEncode .remix rfl,
    decodeOfEncode .fetch32Le rfl, decodeOfEncode .tail32Be rfl, decodeOfEncode (.mixupAb 6) rfl,
    decodeOfEncode (.mixupBa 1) rfl⟩

/-! ## Illegal words -/

section Illegal
variable {op : BitVec 4} {e : Bool} {k : BitVec 3} {x : Bool}

theorem decodeOrdered_illegal {le be : Instr} :
    (∃ r, decodeOrdered e k x le be = .illegal r) ↔ k ≠ 0 ∨ x = true := by
  unfold decodeOrdered
  split
  · next h => exact iff_of_true ⟨_, rfl⟩ h
  · next h => exact iff_of_false nofun h

theorem decodeFree_illegal {j : Instr} :
    (∃ r, decodeFree e k x j = .illegal r) ↔ e = true ∨ k ≠ 0 ∨ x = true := by
  unfold decodeFree
  split
  · next h => exact iff_of_true ⟨_, rfl⟩ (.inr h)
  · next h =>
    split
    · next he => exact iff_of_true ⟨_, rfl⟩ (.inl he)
    · next he => exact iff_of_false nofun (not_or.2 ⟨he, h⟩)

theorem decodeMixup_illegal : (∃ r, decodeMixup e k x = .illegal r) ↔ e = true ∨ k = 7 := by
  unfold decodeMixup
  split
  · next he => exact iff_of_true ⟨_, rfl⟩ (.inl he)
  · next he =>
    split
    · next hk => exact iff_of_true ⟨_, rfl⟩ (.inr hk)
    · next hk => exact iff_of_false nofun (not_or.2 ⟨he, hk⟩)

/-- Clauses (b), (d), (e) and (f) of R87, operation by operation. -/
theorem decodeFields_illegal :
    (∃ r, decodeFields op e k x = .illegal r) ↔
      op.toNat ∈ [0x0, 0xE, 0xF] ∨ (e = true ∧ op.toNat ∈ [0x2, 0x3, 0x5, 0xA, 0xD]) ∨
        (op.toNat ≠ 0xD ∧ (k ≠ 0 ∨ x = true)) ∨ (op.toNat = 0xD ∧ k = 7) := by
  unfold decodeFields
  split
  case h_14 =>
    have hlt := op.isLt
    have hreserved : op.toNat ∈ [0x0, 0xE, 0xF] := by grind
    exact iff_of_true ⟨_, rfl⟩ (.inl hreserved)
  all_goals
    rename_i hop
    simp [hop, decodeOrdered_illegal, decodeFree_illegal, decodeMixup_illegal]

end Illegal

/-- Clauses (a) and (c) of R87, and those of the operation map. -/
theorem decodeCommand_illegal {v : Dword} :
    (∃ r, decodeCommand v = .illegal r) ↔
      upperField v ≠ 0 ∨ rsvField v ≠ 0 ∨
        ∃ r, decodeFields (opField v) (eField v) (kField v) (xField v) = .illegal r := by
  unfold decodeCommand
  by_cases hu : upperField v = 0
  · by_cases hr : rsvField v = 0
    · simp [hu, hr]
    · rw [if_neg (not_not.2 hu), if_pos hr]
      exact iff_of_true ⟨_, rfl⟩ (.inr (.inl hr))
  · rw [if_pos hu]
    exact iff_of_true ⟨_, rfl⟩ (.inl hu)

/-- The clauses of R87 over the fields, as clauses over the number. -/
theorem illegal_iff_clauses (v : Dword) :
    (∃ r, decodeCommand v = .illegal r) ↔
      v.toNat / 2 ^ 16 ≠ 0 ∨
      v.toNat % 16 ∈ [0x0, 0xE, 0xF] ∨
      v.toNat / 2 ^ 9 % 2 ^ 7 ≠ 0 ∨
      (v.toNat / 2 ^ 4 % 2 = 1 ∧ v.toNat % 16 ∈ [0x2, 0x3, 0x5, 0xA, 0xD]) ∨
      (v.toNat % 16 ≠ 0xD ∧ (v.toNat / 2 ^ 5 % 2 ^ 3 ≠ 0 ∨ v.toNat / 2 ^ 8 % 2 ≠ 0)) ∨
      (v.toNat % 16 = 0xD ∧ v.toNat / 2 ^ 5 % 2 ^ 3 = 7) := by
  have hk (m : BitVec 3) : kField v = m ↔ v.toNat / 2 ^ 5 % 2 ^ 3 = m.toNat := by
    rw [← BitVec.toNat_inj, kField_toNat]
  have hr : rsvField v = 0 ↔ v.toNat / 2 ^ 9 % 2 ^ 7 = 0 := by rw [← BitVec.toNat_inj, rsvField_toNat]; rfl
  have hu : upperField v = 0 ↔ v.toNat / 2 ^ 16 = 0 := by rw [← BitVec.toNat_inj, upperField_toNat]; rfl
  have he : eField v = true ↔ v.toNat / 2 ^ 4 % 2 = 1 := by rw [← eField_toNat, Bool.toNat_eq_one]
  have hx : xField v = true ↔ v.toNat / 2 ^ 8 % 2 ≠ 0 := by
    rw [← xField_toNat, ne_eq, Bool.toNat_eq_zero, Bool.not_eq_false]
  simp only [decodeCommand_illegal, decodeFields_illegal, opField_toNat, ne_eq, hu, hr, he, hx, hk]
  exact or_congr_right or_left_comm

/-- Every well-formed command's word is in its own row of the opcode table and in no other. -/
theorem encodesItsRow (i : Instr) : Laws.EncodesItsRow.Statement i :=
  match i with
  | .hashLe => Laws.EncodesItsRow.hashLe
  | .hashBe => Laws.EncodesItsRow.hashBe
  | .init => Laws.EncodesItsRow.init
  | .bulkSetup => Laws.EncodesItsRow.bulkSetup
  | .bulkBlockLe => Laws.EncodesItsRow.bulkBlockLe
  | .bulkBlockBe => Laws.EncodesItsRow.bulkBlockBe
  | .bulkFold => Laws.EncodesItsRow.bulkFold
  | .tailQ4Le => Laws.EncodesItsRow.tailQ4Le
  | .tailQ4Be => Laws.EncodesItsRow.tailQ4Be
  | .tailQ3Le => Laws.EncodesItsRow.tailQ3Le
  | .tailQ3Be => Laws.EncodesItsRow.tailQ3Be
  | .tailQ2Le => Laws.EncodesItsRow.tailQ2Le
  | .tailQ2Be => Laws.EncodesItsRow.tailQ2Be
  | .tailQ1Le => Laws.EncodesItsRow.tailQ1Le
  | .tailQ1Be => Laws.EncodesItsRow.tailQ1Be
  | .remix => Laws.EncodesItsRow.remix
  | .fetch32Le => Laws.EncodesItsRow.fetch32Le
  | .fetch32Be => Laws.EncodesItsRow.fetch32Be
  | .tail32Le => Laws.EncodesItsRow.tail32Le
  | .tail32Be => Laws.EncodesItsRow.tail32Be
  | .mixupAb k => Laws.EncodesItsRow.mixupAb k
  | .mixupBa k => Laws.EncodesItsRow.mixupBa k

/-- Every command has a row of the opcode table that admits its word, one of its own mnemonic (30_encoding.md §8). -/
theorem exists_row (i : Instr) (hw : i.wf = true) :
    ∃ r ∈ opcodeTable, r.mnemonic = i.mnemonic ∧ r.admits (encode i) = true := by
  have hrow : i.mnemonic ∈ (opcodeTable.filter fun r => r.admits (encode i)).map OpcodeRow.mnemonic := by
    rw [encodesItsRow i hw]
    exact List.mem_singleton_self _
  obtain ⟨r, hr, hmnemonic⟩ := List.mem_map.1 hrow
  obtain ⟨hmem, hadmits⟩ := List.mem_filter.1 hr
  exact ⟨r, hmem, hmnemonic, hadmits⟩

theorem acceptCommand_illegal {v : Dword} {r : IllegalReason} (h : decodeCommand v = .illegal r) (s : State) :
    s.acceptCommand v = (s.noteCommand v).raiseIllegal := by
  simp only [State.acceptCommand, h]

theorem engineTurn_idle {s : State} (hb : s.busy = false) : s.engineTurn = .next s := by
  simp [State.engineTurn, hb]

/-- Settles O4: R87 by the fields, the row of the opcode table, and ILLEGAL at acceptance (60_exceptions.md R183). -/
theorem illegalExactlyByRule : Obligations.IllegalExactlyByRule := by
  refine fun v => ⟨illegal_iff_clauses v, fun i hdec => ?_, fun r s hdec hb hlive => ?_⟩
  · obtain ⟨hw, rfl⟩ := encodeOfDecode v i hdec
    have hword : (commandValue i).setWidth 16 = encode i := BitVec.setWidth_setWidth_of_le _ (by decide)
    rw [hword]
    exact exists_row i hw
  · have hwrite : s.hostWrite .cmd v = (s.noteCommand v).raiseIllegal :=
      (hostWrite_idle s .cmd v hlive hb).trans (acceptCommand_illegal hdec s)
    rw [hwrite]
    exact ⟨rfl, hb, engineTurn_idle hb⟩

/-! ## Assembler text -/

theorem mem_legalCommands {i : Instr} (hw : i.wf = true) : i ∈ legalCommands := by
  cases i
  case mixupAb k => revert k; decide
  case mixupBa k => revert k; decide
  all_goals decide

theorem mem_primeIndices {k : BitVec 3} (hk : k ≠ 7) : k ∈ primeIndices := by revert k; decide

/-- Where no two entries have the same key, the search by an entry's key finds that entry. -/
theorem find?_key {α β : Type} [BEq β] [LawfulBEq β] {f : α → β} {l : List α} {a : α} (hnodup : (l.map f).Nodup)
    (ha : a ∈ l) : (l.find? fun b => f b == f a) = some a := by
  cases hfind : l.find? fun b => f b == f a with
  | none => exact absurd (beq_self_eq_true (f a)) (List.find?_eq_none.1 hfind a ha)
  | some b =>
    have hkey : f b = f a := eq_of_beq (List.find?_some (p := fun b => f b == f a) hfind)
    rw [List.inj_on_of_nodup_map hnodup (List.mem_of_find?_eq_some hfind) ha hkey]

theorem legalCommands_text_nodup : (legalCommands.map Instr.text).Nodup := by decide

theorem mixup_text_nodup : (primeIndices.map fun k => "mixup " ++ primeName k).Nodup := by decide

/-- The pseudo-instruction's text is no command's. -/
theorem mixup_text_ne_text : ∀ k ∈ primeIndices, ∀ i ∈ legalCommands, i.text ≠ "mixup " ++ primeName k := by decide

/-- Settles O5: all 34 texts of R91 differ, and so do those of `mixup q<K>`, from each other and from the 34. -/
theorem assemblerReadsCommandText : Obligations.AssemblerReadsCommandText := by
  constructor
  · intro i hw
    simp only [assemble, find?_key legalCommands_text_nodup (mem_legalCommands hw)]
  · intro k hk
    have hmem := mem_primeIndices hk
    have hnone : (legalCommands.find? fun i => i.text == "mixup " ++ primeName k) = none :=
      List.find?_eq_none.2 fun i hi => by simpa using mixup_text_ne_text k hmem i hi
    simp only [assemble, hnone, find?_key mixup_text_nodup hmem, Option.map_some]

end Sys2Proof.Machine

/-!
Command acceptance and the engine's turn after it (30_encoding.md R90; 43_hash_sequence.md R161), and the forms that stop.
-/

namespace Sys2Proof.Machine

/-! ## The engine's turn after acceptance -/

theorem acceptCommand_legal {v : Dword} {i : Instr} (h : decodeCommand v = .legal i) (s : State) :
    s.acceptCommand v = (s.noteCommand v).startCommand v i := by
  simp only [State.acceptCommand, h]

/-- Acceptance does not look at the schedule. -/
theorem acceptCommand_schedule (s : State) (v : Dword) (es : List Event) :
    State.acceptCommand v { s with schedule := es } = { s.acceptCommand v with schedule := es } := by
  unfold State.acceptCommand
  split <;> rfl

/-- After acceptance of a legal command the engine's turn is that command's step, whatever is scheduled after it
(43_hash_sequence.md R161). -/
theorem engineTurn_accepted {s : State} {v : Dword} {i : Instr} (hlive : s.inReset = false)
    (h : decodeCommand v = .legal i) (es : List Event) :
    State.engineTurn { s.acceptCommand v with schedule := es } = exec i { s.acceptCommand v with schedule := es } := by
  rw [acceptCommand_legal h]
  exact engineTurn_of_current _ i rfl hlive (commandAt_start _ _ _ _ i (decodeFields_of_decodeCommand h)).1

/-- Settles O6: the write is the acceptance, and the turn after it the accepted command's step. -/
theorem stepRunsAcceptedCommand : Obligations.StepRunsAcceptedCommand := by
  intro s v i hb hlive hdec
  refine ⟨fun es => ?_, fun hsched => ?_, engineTurn_accepted hlive hdec⟩
  · show Host.Outcome.next (State.hostWrite .cmd v { s with schedule := es }) = _
    rw [hostWrite_idle { s with schedule := es } .cmd v hlive hb]
    exact congrArg Host.Outcome.next (acceptCommand_schedule s v es)
  · have hsched' : (s.acceptCommand v).schedule = [] := by rw [acceptCommand_legal hdec]; exact hsched
    rw [step_of_schedule_nil _ hsched']
    exact engineTurn_accepted hlive hdec (s.acceptCommand v).schedule

theorem decodeCommand_of_decodeTableWord {w : Nat} {i : Instr} (hw : w < 2 ^ 16) (h : decodeTableWord 16 w = some i) :
    decodeCommand (BitVec.ofNat 64 w) = .legal i := by
  rw [decodeTableWord, if_pos (by decide), Nat.mod_eq_of_lt hw] at h
  cases hdec : decodeCommand (BitVec.ofNat 64 w) with
  | legal j => rw [hdec] at h; cases h; rfl
  | illegal r => rw [hdec] at h; cases h

/-- Settles O8: the placed command is accepted with the engine's turn next. -/
theorem placedCommandRunsNext : Obligations.PlacedCommandRunsNext := by
  intro s w i hw hdec
  have hdec := decodeCommand_of_decodeTableWord hw hdec
  rw [State.withFetchWord, Nat.mod_eq_of_lt hw]
  exact engineTurn_accepted (s := { s with busy := false, inReset := false }) rfl hdec _

theorem opField_mixupAb (k : BitVec 3) : opField (commandValue (.mixupAb k)) = 0xD :=
  congrArg Cur.op (commandFields_mixupAb k)

theorem opField_mixupBa (k : BitVec 3) : opField (commandValue (.mixupBa k)) = 0xD :=
  congrArg Cur.op (commandFields_mixupBa k)

/-- HASH is OP = 1 (30_encoding.md R82). -/
theorem isHash_eq_op (i : Instr) : isHash i = (opField (commandValue i) == 1) := by
  cases i
  case mixupAb k => rw [opField_mixupAb]; rfl
  case mixupBa k => rw [opField_mixupBa]; rfl
  all_goals rfl

/-- The first phase is OP's, but INIT for HASH (30_encoding.md R90). -/
theorem startPhase_code (i : Instr) :
    (startPhase i).code = if opField (commandValue i) = 1 then 2 else opField (commandValue i) := by
  cases i
  case mixupAb k => rw [opField_mixupAb]; rfl
  case mixupBa k => rw [opField_mixupBa]; rfl
  all_goals rfl

/-- Settles O9: the write is dropped while a command runs, and is the acceptance otherwise. -/
theorem commandAcceptance : Obligations.CommandAcceptance := by
  intro s v hlive
  have hword : v.extractLsb' 0 16 = v.setWidth 16 := (BitVec.setWidth_eq_extractLsb' (by decide)).symm
  refine ⟨fun hb => hostWrite_busy s .cmd v hlive hb (by decide), fun r hb hdec => ?_, fun i hb hdec => ?_⟩
  · rw [hostWrite_idle s .cmd v hlive hb, ← hword]
    exact acceptCommand_illegal hdec s
  · rw [hostWrite_idle s .cmd v hlive hb, ← hword]
    obtain ⟨-, rfl⟩ := encodeOfDecode v i hdec
    refine ⟨startPhase i, startPhase_code i, (acceptCommand_legal hdec s).trans ?_⟩
    rw [State.startCommand, isHash_eq_op]
    rfl

/-! ## Forms that stop -/

theorem primeAt_seven (p : Params) : primeAt p 7 = none := by simp [primeAt]

theorem hashMicro_outside {ph : Phase} (h : ph ∈ [Phase.idle, .fetch32, .tail32, .mixup]) (e : ByteOrder) (s : State) :
    hashMicro e ph s = none := by
  fin_cases h <;> rfl

/-- Settles O41: K = 7 names no constant, and the four phases no micro-operation of HASH. -/
theorem stopsByName : Obligations.StopsByName := by
  intro s e
  refine ⟨?_, ?_, fun hph => ?_⟩
  · simp only [exec, execMixupAb, primeAt_seven]
  · simp only [exec, execMixupBa, primeAt_seven]
  · simp only [exec_hashCommand, hashStep, hashMicro_outside hph]

end Sys2Proof.Machine

/-!
What an error or a completion of a micro-operation command leaves, field by field (60_exceptions.md R184), and with it the word
fetcher and the bounded tail reader (40_fetch_tail.md).
-/

namespace Sys2Proof.Machine

/-! ## How a command ends -/

theorem raiseRange_eq_endedBy {s : State} {x : Addr} (hx : x.toNat < s.params.space) (ph : Phase) :
    s.raiseRange ph x.toNat = endedBy .range ph x s := by
  rw [State.raiseRange, State.reportError, BitVec.ofNat_toNat, BitVec.setWidth_eq]
  simp only [truncAddr_of_lt _ _ hx]
  rfl

theorem raiseBus_eq_endedBy {s : State} {x : Nat} (hx : x < s.params.space) (ph : Phase) (issued : List Request) :
    s.raiseBus ph x issued = endedBy .bus ph (BitVec.ofNat 64 x) (s.noteReads false [] issued) := by
  have hnat : (BitVec.ofNat 64 x).toNat = x := Nat.mod_eq_of_lt (hx.trans_le s.params.space_le)
  rw [State.raiseBus, State.reportError]
  simp only [State.noteReads_params, truncAddr_of_lt s.params (BitVec.ofNat 64 x) (hnat.symm ▸ hx)]
  rfl

/-- The end of a command whose bound check fails (60_exceptions.md R181); `x` is the address that it records. -/
theorem exec_of_rangeFails {i : Instr} {s : State} {x : Addr} (hh : isHash i = false) (h : rangeFails i s)
    (haddr : rangeAddr i s = x.toNat) (hx : x.toNat < s.params.space) :
    exec i s = .next (endedBy .range (startPhase i) x s) := by
  rw [exec_range i s hh h, haddr, raiseRange_eq_endedBy hx]

/-- Only MIXUP can be ill-formed, and it reads nothing. -/
theorem wf_of_mem_requestsOf {i : Instr} {s : State} {q : Request} (h : q ∈ requestsOf i s) : i.wf = true := by
  cases i
  case mixupAb k => exact absurd h List.not_mem_nil
  case mixupBa k => exact absurd h List.not_mem_nil
  all_goals rfl

/-- The end of a command one of whose requests fails (60_exceptions.md R182, R187 (4)). -/
theorem exec_of_failsAt {i : Instr} {s : State} {q : Request} {issued : List Request} (hh : isHash i = false)
    (hr : ¬rangeFails i s) (hf : s.failsAt (requestsOf i s) q issued) :
    exec i s =
      .next (endedBy .bus (startPhase i) (BitVec.ofNat 64 q.addr) (s.noteReads false [] issued)) := by
  obtain ⟨before, after, hqs, rfl, hq, hb⟩ := hf
  have hmem : q ∈ requestsOf i s := by simp [hqs]
  obtain ⟨-, -, hspace, hsize⟩ := mem_requestsOf i s hr q hmem
  have hi : s.issue (requestsOf i s) = .bus q.addr (before ++ [q]) := by
    rw [hqs]
    exact issue_of_failing s before after q hq hb
  rw [exec_bus i s (wf_of_mem_requestsOf hmem) hh hr _ _ hi, raiseBus_eq_endedBy (by omega)]

/-! ## The word as a sum of shifted bytes -/

/-- Where the byte at index `i` stands in a word (40_fetch_tail.md R100). -/
def byteShift : ByteOrder → Nat → Nat
  | .little, i => 8 * i
  | .big, i => 24 - 8 * i

/-- Bytes at places that do not overlap. -/
theorem shiftLeft_and_shiftLeft_of_apart (x y : Byte) {i j : Nat} (h : i + 8 ≤ j ∨ j + 8 ≤ i) :
    x.setWidth 32 <<< i &&& y.setWidth 32 <<< j = 0#32 := by
  ext k hk
  simp only [BitVec.getElem_and, BitVec.getElem_shiftLeft, BitVec.getElem_setWidth, BitVec.getElem_zero]
  by_cases hx : 8 ≤ k - i
  · simp [BitVec.getLsbD_of_ge x _ hx]
  · by_cases hy : 8 ≤ k - j
    · simp [BitVec.getLsbD_of_ge y _ hy]
    · have hbelow : k < i ∨ k < j := by omega
      obtain hi | hj := hbelow
      · simp [hi]
      · simp [hj]

theorem shiftLeft_byteShift_and (e : ByteOrder) (x y : Byte) {i j : Nat} (hij : i < j) (hj : j < 4) :
    x.setWidth 32 <<< byteShift e i &&& y.setWidth 32 <<< byteShift e j = 0#32 := by
  apply shiftLeft_and_shiftLeft_of_apart
  cases e <;> simp only [byteShift] <;> omega

/-- Four bytes of a word do not overlap, so their sum is their disjunction. -/
theorem shiftedSum_eq_or (e : ByteOrder) (b0 b1 b2 b3 : Byte) :
    shiftedSum (byteShift e) 0 [b0, b1, b2, b3] =
      b0.setWidth 32 <<< byteShift e 0 ||| (b1.setWidth 32 <<< byteShift e 1 |||
        (b2.setWidth 32 <<< byteShift e 2 ||| b3.setWidth 32 <<< byteShift e 3)) := by
  have add_eq_or {u v : Word} (h : u &&& v = 0#32) : u + v = u ||| v := BitVec.add_eq_or_of_and_eq_zero u v h
  simp only [shiftedSum, add_zero, Nat.zero_add, Nat.reduceAdd]
  rw [add_eq_or (u := b2.setWidth 32 <<< _), add_eq_or (u := b1.setWidth 32 <<< _),
    add_eq_or (u := b0.setWidth 32 <<< _)]
  all_goals simp [BitVec.and_or_distrib_left, shiftLeft_byteShift_and e]

/-- A word is the sum of its bytes, each at its place. -/
theorem assembleWord_eq_shiftedSum (e : ByteOrder) (bs : List Byte) (hlen : bs.length = 4) :
    assembleWord e bs = shiftedSum (byteShift e) 0 bs := by
  obtain ⟨b0, b1, b2, b3, rfl⟩ := List.length_eq_four.1 hlen
  rw [shiftedSum_eq_or, ← BitVec.or_assoc, ← BitVec.or_assoc]
  cases e <;> simp [assembleWord, byteShift, byteOf]

/-- Zeros after the bytes add nothing. -/
theorem shiftedSum_append_zeros (f : Nat → Nat) (i : Nat) (bs : List Byte) (k : Nat) :
    shiftedSum f i (bs ++ List.replicate k 0) = shiftedSum f i bs := by
  induction bs generalizing i with
  | nil =>
    induction k generalizing i with
    | zero => rfl
    | succ k ih => simpa [List.replicate_succ, shiftedSum] using ih (i + 1)
  | cons b bs ih => simp only [List.cons_append, shiftedSum, ih]

/-- Zeros before the bytes move them to later places. -/
theorem shiftedSum_zeros_append (f : Nat → Nat) (i : Nat) (bs : List Byte) (k : Nat) :
    shiftedSum f i (List.replicate k 0 ++ bs) = shiftedSum f (i + k) bs := by
  induction k generalizing i with
  | zero => rfl
  | succ k ih => simpa [List.replicate_succ, shiftedSum, Nat.add_right_comm, Nat.add_assoc] using ih (i + 1)

theorem shiftedSum_congr {f g : Nat → Nat} {i j : Nat} {bs : List Byte} (h : ∀ k < bs.length, f (i + k) = g (j + k)) :
    shiftedSum f i bs = shiftedSum g j bs := by
  induction bs generalizing i j with
  | nil => rfl
  | cons b bs ih =>
    have h0 : f i = g j := h 0 (Nat.succ_pos _)
    have hrest : shiftedSum f (i + 1) bs = shiftedSum g (j + 1) bs :=
      ih fun k hk => by simpa [Nat.add_right_comm, Nat.add_assoc] using h (k + 1) (Nat.succ_lt_succ hk)
    simp only [shiftedSum, h0, hrest]

/-! ## The word of a tail -/

/-- Zeros after a tail (40_fetch_tail.md R101, and R102 for PAD_LOW). -/
theorem assembleWord_append_zeros (e : ByteOrder) (bs : List Byte) (hlen : bs.length ≤ 4) :
    assembleWord e (bs ++ List.replicate (4 - bs.length) 0) = shiftedSum (byteShift e) 0 bs := by
  rw [assembleWord_eq_shiftedSum e _ (by simp; omega), shiftedSum_append_zeros]

/-- Zeros before a big-endian tail (R102 for RIGHT_JUSTIFIED). -/
theorem assembleWord_zeros_append (bs : List Byte) (hlen : bs.length ≤ 4) :
    assembleWord .big (List.replicate (4 - bs.length) 0 ++ bs) = shiftedSum (fun i => 8 * (bs.length - 1 - i)) 0 bs := by
  rw [assembleWord_eq_shiftedSum .big _ (by simp; omega), shiftedSum_zeros_append]
  exact shiftedSum_congr fun k hk => by simp only [byteShift]; omega

/-- A tail of 4 bytes is a word (40_fetch_tail.md R103), and the sum of its bytes like a shorter one, in either layout. -/
theorem tailWord_eq_assembleTail (p : Params) (e : ByteOrder) (bs : List Byte) :
    tailWord p e bs.length bs = assembleTail p.beTail e bs := by
  unfold tailWord
  split
  · next h4 =>
    rw [assembleWord_eq_shiftedSum e bs h4]
    unfold assembleTail
    split
    · rfl
    · rfl
    · exact shiftedSum_congr fun k hk => by simp only [byteShift]; omega
  · rfl

/-- Settles O22: both words are the same sum of shifted bytes. -/
theorem tailIsZeroPaddedWord : Obligations.TailIsZeroPaddedWord := by
  intro p bs _ hlen
  rw [tailWord_eq_assembleTail, tailWord_eq_assembleTail, assembleWord_append_zeros .little bs hlen,
    assembleWord_append_zeros .big bs hlen, assembleWord_zeros_append bs hlen]
  exact ⟨rfl, fun hlayout => by rw [hlayout]; rfl, fun hlayout => by rw [hlayout]; rfl⟩

/-! ## FETCH32 and TAIL32 -/

/-- FETCH32 of delivered bytes (40_fetch_tail.md R105). -/
theorem exec_fetchCommand (e : ByteOrder) {s : State} {bs : List Byte} (hlen : bs.length = 4) (hn : 4 ≤ s.n.toNat)
    (hp : s.p.toNat + 4 ≤ s.params.space) (hd : s.delivers s.p.toNat bs) :
    exec (fetchCommand e) s = .next (endedOk
      { s.noteReads (splitsWord s.params s.p.toNat) bs (wordRequests s.params s.p.toNat) with
        w := assembleWord e bs }) := by
  have hr : ¬(s.n.toNat < 4 ∨ s.p.toNat + 4 > s.params.space) := by omega
  have hi := issue_wordRequests s s.params s.p.toNat bs hd hlen
  cases e with
  | little => exact exec_ok .fetch32Le s rfl rfl hr bs _ hi
  | big => exact exec_ok .fetch32Be s rfl rfl hr bs _ hi

/-- TAIL32 of delivered bytes (40_fetch_tail.md R106). -/
theorem exec_tail32Command (e : ByteOrder) {s : State} {bs : List Byte} (hlen : bs.length = s.n.toNat)
    (hr : ¬rangeFails (tail32Command e) s) (hd : s.delivers s.p.toNat bs) :
    exec (tail32Command e) s = .next (endedOk
      { s.noteReads (bs.length == 4 && splitsWord s.params s.p.toNat) bs (tailRequests s.params s.p.toNat bs.length) with
        w := tailWord s.params e bs.length bs }) := by
  have hi := issue_tailRequests s s.params s.p.toNat bs hd
  rw [hlen] at hi ⊢
  cases e with
  | little => exact exec_ok .tail32Le s rfl rfl hr bs _ hi
  | big => exact exec_ok .tail32Be s rfl rfl hr bs _ hi

/-- Settles O33: one lemma for each way that FETCH32 ends; R100 gives its word as a concatenation. -/
theorem fetchWordResult : Obligations.FetchWordResult := by
  refine ⟨decodeOfEncode .fetch32Le rfl, decodeOfEncode .fetch32Be rfl, fun s hp => ⟨?_, ?_, ?_⟩⟩
  · intro e hr
    cases e <;> exact exec_of_rangeFails rfl hr rfl hp
  · intro b0 b1 b2 b3 hn hspace hd
    obtain ⟨hle, hbe⟩ := wordByteOrder b0 b1 b2 b3
    rw [← hle, ← hbe]
    exact ⟨exec_fetchCommand .little rfl hn hspace hd, exec_fetchCommand .big rfl hn hspace hd⟩
  · intro e q issued hn hspace hf
    have hr : ¬(s.n.toNat < 4 ∨ s.p.toNat + 4 > s.params.space) := by omega
    cases e <;> exact exec_of_failsAt rfl hr hf

/-- The bound check of TAIL32 (60_exceptions.md R181), with N = 0 as the obligation says it. -/
theorem rangeFails_tail32Command (e : ByteOrder) (s : State) :
    rangeFails (tail32Command e) s ↔ s.n.toNat = 0 ∨ s.n.toNat > 4 ∨ s.p.toNat + s.n.toNat > s.params.space := by
  rw [← Nat.lt_one_iff]
  cases e <;> exact Iff.rfl

/-- Settles O34: one lemma for each way that TAIL32 ends. -/
theorem tailReadResult : Obligations.TailReadResult := by
  refine ⟨decodeOfEncode .tail32Le rfl, decodeOfEncode .tail32Be rfl, fun e s hp => ⟨?_, ?_, ?_⟩⟩
  · intro h
    have hr := (rangeFails_tail32Command e s).2 h
    cases e <;> exact exec_of_rangeFails rfl hr rfl hp
  · intro bs hlo hhi hspace hlen hd
    exact exec_tail32Command e hlen (by rw [rangeFails_tail32Command]; omega) hd
  · intro q issued hlo hhi hspace hf
    have hr : ¬rangeFails (tail32Command e) s := by rw [rangeFails_tail32Command]; omega
    cases e <;> exact exec_of_failsAt rfl hr hf

end Sys2Proof.Machine

/-!
Mixer initialisation and the bulk phase: INIT, BULK.SETUP, BULK.BLOCK and BULK.FOLD (41_mixer_bulk.md R120 to R124).
-/

namespace Sys2Proof.Machine

/-! ## Halves of a register, and P moving on -/

theorem lo32_eq_setWidth (l : Dword) : lo32 l = l.setWidth 32 := (BitVec.setWidth_eq_extractLsb' (by decide)).symm

theorem hi32_eq_setWidth (l : Dword) : hi32 l = (l >>> 32).setWidth 32 := BitVec.setWidth_ushiftRight_eq_extractLsb.symm

/-- P moves modulo 2^ADDR_W (20_memory.md R54): the 64-bit sum's own wrap is lost in it, since 2^ADDR_W divides 2^64. -/
theorem truncAddr_add (p : Params) (x : Addr) (k : Nat) :
    truncAddr p (x + BitVec.ofNat 64 k) = BitVec.ofNat 64 ((x.toNat + k) % p.space) := by
  rw [truncAddr, BitVec.toNat_add, BitVec.toNat_ofNat, Nat.add_mod_mod, Nat.mod_mod_of_dvd _ p.space_dvd]

/-! ## The commands without a read -/

/-- A command that issues no request completes when its bound check holds. -/
theorem exec_of_requestsOf_nil (i : Instr) (s : State) (hw : i.wf = true) (hh : isHash i = false)
    (hr : ¬rangeFails i s) (hq : requestsOf i s = []) : exec i s = .next (endedOk (effect i [] s)) :=
  exec_ok i s hw hh hr [] [] (by rw [hq]; rfl)

/-- INIT of a buffer inside the address space (41_mixer_bulk.md R120). -/
theorem exec_init {s : State} (haddr : s.addr.toNat < s.params.space)
    (hspace : s.addr.toNat + s.len.toNat ≤ s.params.space) :
    exec .init s = .next (endedOk
      { s with a := initA s.params s.len s.seed, b := initB s.len s.seed, p := s.addr, n := s.len }) := by
  have hp : truncAddr s.params s.addr = s.addr := truncAddr_of_lt s.params s.addr haddr
  rw [exec_of_requestsOf_nil .init s rfl rfl (Nat.not_lt.2 hspace) rfl]
  simp only [effect, State.setPN, State.setAB, hp]

/-- Settles O23: RANGE by the bound check, and else the words of R120 with the library's rotation and halves. -/
theorem initResult : Obligations.InitResult := by
  refine ⟨decodeOfEncode .init rfl, fun s haddr => ⟨fun hr => ?_, fun hspace => ?_⟩⟩
  · exact exec_of_rangeFails rfl hr rfl haddr
  · rw [exec_init haddr hspace, initA, initB, rotl32_eq_rotateLeft, lo32_eq_setWidth, lo32_eq_setWidth,
      hi32_eq_setWidth]

/-- Settles O24: no read and no bound check; A and B are written with their own values (R121). -/
theorem bulkSetupResult : Obligations.BulkSetupResult := by
  refine ⟨decodeOfEncode .bulkSetup rfl, fun s => ?_⟩
  rw [← rotl32_eq_rotateLeft]
  exact exec_of_requestsOf_nil .bulkSetup s rfl rfl not_false rfl

/-- Settles O26: no read and no bound check; the writes are the fold of R124. -/
theorem bulkFoldResult : Obligations.BulkFoldResult := by
  refine ⟨decodeOfEncode .bulkFold rfl, fun s => ?_⟩
  rw [← rotl32_eq_rotateLeft, ← rotl32_eq_rotateLeft]
  exact exec_of_requestsOf_nil .bulkFold s rfl rfl not_false rfl

/-! ## BULK.BLOCK -/

/-- BULK.BLOCK of delivered bytes (41_mixer_bulk.md R122, R123). -/
theorem exec_blockCommand (e : ByteOrder) {s : State} {bs : List Byte} (hlen : bs.length = 16) (hn : 16 ≤ s.n.toNat)
    (hp : s.p.toNat + 16 ≤ s.params.space) (hd : s.delivers s.p.toNat bs) :
    exec (blockCommand e) s = .next (endedOk
      { (s.noteReads (splitsWord s.params s.p.toNat) bs (blockRequests s.params s.p.toNat)).setAcc
          (blockOfBytes s.params e bs s.acc) with
        p := BitVec.ofNat 64 ((s.p.toNat + 16) % s.params.space)
        n := s.n - 16 }) := by
  have hr : ¬(s.n.toNat < 16 ∨ s.p.toNat + 16 > s.params.space) := by omega
  have hi := issue_blockRequests s s.params s.p.toNat bs hd hlen
  rw [← truncAddr_add]
  cases e with
  | little => exact exec_ok .bulkBlockLe s rfl rfl hr bs _ hi
  | big => exact exec_ok .bulkBlockBe s rfl rfl hr bs _ hi

/-- Settles O25: one lemma for each way that BULK.BLOCK ends; its accumulator words are those of R123 once the library's
rotations are the model's. -/
theorem bulkBlockResult : Obligations.BulkBlockResult := by
  refine ⟨decodeOfEncode .bulkBlockLe rfl, decodeOfEncode .bulkBlockBe rfl, fun e s hp => ⟨?_, ?_, ?_⟩⟩
  · intro hr
    cases e <;> exact exec_of_rangeFails rfl hr rfl hp
  · intro bs hn hspace hlen hd
    simp only [← rotl32_eq_rotateLeft]
    exact exec_blockCommand e hlen hn hspace hd
  · intro q issued hn hspace hf
    have hr : ¬(s.n.toNat < 16 ∨ s.p.toNat + 16 > s.params.space) := by omega
    cases e <;> exact exec_of_failsAt rfl hr hf

end Sys2Proof.Machine

/-!
The mixing step MIXUP, the tail cascade TAIL.Q4 to TAIL.Q1 and the finalisation REMIX (42_mixer_tail_final.md R140 to R147).
The four steps of the cascade are one step with different numbers, `TailStepAt`, so how they end is proved once.
-/

namespace Sys2Proof.Machine

/-! ## The mixing step -/

/-- R140 with the library's halves of the product. -/
theorem mixup32_eq (x y v q : Word) :
    mixup32 x y v q = (x ^^^ ((y + v).setWidth 64 * q.setWidth 64).setWidth 32,
      y + (((y + v).setWidth 64 * q.setWidth 64) >>> 32).setWidth 32) := by
  rw [mixup32, mul32x64, lo32_eq_setWidth, hi32_eq_setWidth]

/-! ## REMIX and MIXUP -/

/-- Settles O32: no read and no bound check; the writes are those of R146 with the library's rotation and concatenation. -/
theorem remixResult : Obligations.RemixResult := by
  refine ⟨decodeOfEncode .remix rfl, fun s => ?_⟩
  simp only [← rotl32_eq_rotateLeft, ← pair64_eq_append]
  exact exec_of_requestsOf_nil .remix s rfl rfl not_false rfl

theorem commandValue_mixupAb (k : BitVec 3) : commandValue (.mixupAb k) = 0x000D ||| k.setWidth 64 <<< 5 := by
  revert k; decide

theorem commandValue_mixupBa (k : BitVec 3) : commandValue (.mixupBa k) = 0x010D ||| k.setWidth 64 <<< 5 := by
  revert k; decide

/-- A K that names a constant (30_encoding.md R84). -/
theorem bne_seven_of_lt {k : BitVec 3} (h : k.toNat < 7) : (k != 7) = true :=
  bne_iff_ne.2 fun h7 => by rw [h7] at h; exact absurd h (by decide)

/-- MIXUP with X = 0 (R145). -/
theorem exec_mixupAb (s : State) (k : BitVec 3) (h : k.toNat < 7) :
    exec (.mixupAb k) s = .next (endedOk (s.mixAB s.w s.params.q[k.toNat])) := by
  rw [exec_of_requestsOf_nil (.mixupAb k) s (bne_seven_of_lt h) rfl not_false rfl, effect, primeAt_of_lt _ _ h]
  rfl

/-- MIXUP with X = 1 (R145). -/
theorem exec_mixupBa (s : State) (k : BitVec 3) (h : k.toNat < 7) :
    exec (.mixupBa k) s = .next (endedOk (s.mixBA s.w s.params.q[k.toNat])) := by
  rw [exec_of_requestsOf_nil (.mixupBa k) s (bne_seven_of_lt h) rfl not_false rfl, effect, primeAt_of_lt _ _ h]
  rfl

/-- Settles O27: each word is the encoder's; with K below 7 the command mixes W by R140. -/
theorem mixupResult : Obligations.MixupResult := by
  refine ⟨fun k hk => ?_, by decide, by decide, fun s k h => ?_⟩
  · rw [← commandValue_mixupAb, ← commandValue_mixupBa]
    exact ⟨decodeOfEncode (.mixupAb k) (bne_iff_ne.2 hk), decodeOfEncode (.mixupBa k) (bne_iff_ne.2 hk)⟩
  · rw [exec_mixupAb s k h, exec_mixupBa s k h, State.mixAB, State.mixBA, mixup32_eq, mixup32_eq]
    exact ⟨rfl, rfl⟩

/-! ## The tail cascade -/

/-- In `s` the command `i` is the step `ph` of the cascade, for more than `k` bytes left. It takes `m` bytes, and
`f word a b` are the new A and B. -/
structure TailStepAt (i : Instr) (ph : Phase) (k m : Nat) (f : Word → Word → Word → Word × Word) (e : ByteOrder)
    (s : State) : Prop where
  legal : i.wf = true
  micro : isHash i = false
  starts : startPhase i = ph
  range_iff : rangeFails i s ↔ s.n.toNat > k + 4 ∨ k + 1 ≤ s.n.toNat ∧ s.p.toNat + m > s.params.space
  range_addr : rangeAddr i s = s.p.toNat
  requests : requestsOf i s = if k + 1 ≤ s.n.toNat then tailRequests s.params s.p.toNat m else []
  effect_eq (bs : List Byte) : effect i bs s =
    if s.n.toNat < k + 1 then s
    else
      ((s.noteReads (m == 4 && splitsWord s.params s.p.toNat) bs (tailRequests s.params s.p.toNat m)).setAB
        (f (tailWord s.params e m bs) s.a s.b).1 (f (tailWord s.params e m bs) s.a s.b).2).advance m

/-- TAIL.Q4 (42_mixer_tail_final.md R141). -/
theorem tailStepAt_tailQ4 (e : ByteOrder) (s : State) :
    TailStepAt (tailQ4Command e) .tailQ4 12 4 (mixIntoAB s.params.q[4]) e s := by
  cases e <;> exact ⟨rfl, rfl, rfl, Iff.rfl, rfl, rfl, fun _ => rfl⟩

/-- TAIL.Q3 (R142). -/
theorem tailStepAt_tailQ3 (e : ByteOrder) (s : State) :
    TailStepAt (tailQ3Command e) .tailQ3 8 4 (mixIntoBA s.params.q[3]) e s := by
  cases e <;> exact ⟨rfl, rfl, rfl, Iff.rfl, rfl, rfl, fun _ => rfl⟩

/-- TAIL.Q2 (R143). -/
theorem tailStepAt_tailQ2 (e : ByteOrder) (s : State) :
    TailStepAt (tailQ2Command e) .tailQ2 4 4 (mixIntoAB s.params.q[2]) e s := by
  cases e <;> exact ⟨rfl, rfl, rfl, Iff.rfl, rfl, rfl, fun _ => rfl⟩

/-- TAIL.Q1 takes all that is left (R144). -/
theorem tailStepAt_tailQ1 (e : ByteOrder) (s : State) :
    TailStepAt (tailQ1Command e) .tailQ1 0 s.n.toNat (mixIntoBA s.params.q[1]) e s := by
  cases e <;> exact ⟨rfl, rfl, rfl, Iff.rfl, rfl, rfl, fun _ => rfl⟩

namespace TailStepAt

variable {i : Instr} {ph : Phase} {k m : Nat} {f : Word → Word → Word → Word × Word} {e : ByteOrder} {s : State}

/-- Too much left, or bytes past the top of the address space. -/
theorem exec_range (h : TailStepAt i ph k m f e s) (hp : s.p.toNat < s.params.space)
    (hr : s.n.toNat > k + 4 ∨ k + 1 ≤ s.n.toNat ∧ s.p.toNat + m > s.params.space) :
    exec i s = .next (endedBy .range ph s.p s) := by
  rw [← h.starts]
  exact exec_of_rangeFails h.micro (h.range_iff.2 hr) h.range_addr hp

/-- Nothing to do below the bucket. -/
theorem exec_below (h : TailStepAt i ph k m f e s) (hn : s.n.toNat ≤ k) : exec i s = .next (endedOk s) := by
  have hr : ¬rangeFails i s := by rw [h.range_iff]; omega
  have hq : requestsOf i s = [] := by rw [h.requests, if_neg (by omega)]
  rw [exec_of_requestsOf_nil i s h.legal h.micro hr hq, h.effect_eq, if_pos (by omega)]

/-- In the bucket and in range, a step asks for its `m` bytes. -/
theorem in_bucket (h : TailStepAt i ph k m f e s) (hlo : k + 1 ≤ s.n.toNat) (hhi : s.n.toNat ≤ k + 4)
    (hspace : s.p.toNat + m ≤ s.params.space) :
    ¬rangeFails i s ∧ requestsOf i s = tailRequests s.params s.p.toNat m :=
  ⟨by rw [h.range_iff]; omega, by rw [h.requests, if_pos hlo]⟩

/-- The bytes delivered are mixed and consumed. -/
theorem exec_delivered (h : TailStepAt i ph k m f e s) (bs : List Byte) (hlo : k + 1 ≤ s.n.toNat)
    (hhi : s.n.toNat ≤ k + 4) (hspace : s.p.toNat + m ≤ s.params.space) (hlen : bs.length = m)
    (hd : s.delivers s.p.toNat bs) :
    exec i s = .next (endedOk
      { s.noteReads (m == 4 && splitsWord s.params s.p.toNat) bs (tailRequests s.params s.p.toNat m) with
        a := (f (tailWord s.params e m bs) s.a s.b).1
        b := (f (tailWord s.params e m bs) s.a s.b).2
        p := BitVec.ofNat 64 ((s.p.toNat + m) % s.params.space)
        n := s.n - BitVec.ofNat 64 m }) := by
  obtain ⟨hr, hq⟩ := h.in_bucket hlo hhi hspace
  have hi := issue_tailRequests s s.params s.p.toNat bs hd
  rw [hlen, ← hq] at hi
  rw [exec_ok i s h.legal h.micro hr bs _ hi, h.effect_eq, if_neg (by omega), ← truncAddr_add]
  rfl

/-- A failing request ends the step at it. -/
theorem exec_bus (h : TailStepAt i ph k m f e s) (q : Request) (issued : List Request) (hlo : k + 1 ≤ s.n.toNat)
    (hhi : s.n.toNat ≤ k + 4) (hspace : s.p.toNat + m ≤ s.params.space)
    (hf : s.failsAt (tailRequests s.params s.p.toNat m) q issued) :
    exec i s = .next (endedBy .bus ph (BitVec.ofNat 64 q.addr) (s.noteReads false [] issued)) := by
  obtain ⟨hr, hq⟩ := h.in_bucket hlo hhi hspace
  rw [← h.starts]
  exact exec_of_failsAt h.micro hr (hq ▸ hf)

end TailStepAt

/-- Settles O28: TAIL.Q4 is the step of the cascade for more than 12 bytes left. -/
theorem tailQ4Result : Obligations.TailQ4Result := by
  refine ⟨decodeOfEncode .tailQ4Le rfl, decodeOfEncode .tailQ4Be rfl, fun e s hp => ?_⟩
  have h := tailStepAt_tailQ4 e s
  have hmix := h.exec_delivered
  simp only [mixIntoAB, mixup32_eq] at hmix
  exact ⟨h.exec_range hp, h.exec_below, hmix, h.exec_bus⟩

/-- Settles O29: TAIL.Q3 is the step for more than 8. -/
theorem tailQ3Result : Obligations.TailQ3Result := by
  refine ⟨decodeOfEncode .tailQ3Le rfl, decodeOfEncode .tailQ3Be rfl, fun e s hp => ?_⟩
  have h := tailStepAt_tailQ3 e s
  have hmix := h.exec_delivered
  simp only [mixIntoBA, mixup32_eq] at hmix
  exact ⟨h.exec_range hp, h.exec_below, hmix, h.exec_bus⟩

/-- Settles O30: TAIL.Q2 is the step for more than 4. -/
theorem tailQ2Result : Obligations.TailQ2Result := by
  refine ⟨decodeOfEncode .tailQ2Le rfl, decodeOfEncode .tailQ2Be rfl, fun e s hp => ?_⟩
  have h := tailStepAt_tailQ2 e s
  have hmix := h.exec_delivered
  simp only [mixIntoAB, mixup32_eq] at hmix
  exact ⟨h.exec_range hp, h.exec_below, hmix, h.exec_bus⟩

/-- Settles O31: TAIL.Q1 is the step for any byte left, and it leaves none. -/
theorem tailQ1Result : Obligations.TailQ1Result := by
  refine ⟨decodeOfEncode .tailQ1Le rfl, decodeOfEncode .tailQ1Be rfl, fun e s hp => ?_⟩
  have h := tailStepAt_tailQ1 e s
  refine ⟨h.exec_range hp, fun hn => h.exec_below hn.le, fun bs hlo hhi hspace hlen hd => ?_, h.exec_bus⟩
  have hzero : s.n - BitVec.ofNat 64 s.n.toNat = 0 := by
    rw [BitVec.ofNat_toNat, BitVec.setWidth_eq, BitVec.sub_self]; rfl
  have hmix := h.exec_delivered bs hlo hhi hspace hlen hd
  rw [hzero] at hmix
  simp only [mixIntoBA, mixup32_eq] at hmix
  rw [hlen]
  exact hmix

end Sys2Proof.Machine

/-!
One step of the engine (43_hash_sequence.md R160, R161): when it has none, that in every state of the invariant it is the
latched command's and answers a next state, that commands complete when no error stops them, and what a step of HASH can do.
-/

namespace Sys2Proof.Machine

/-! ## The engine's turn -/

theorem engineTurn_of_phase_idle {s : State} (hph : s.phase = .idle) : s.engineTurn = .next s := by
  have hnone : s.currentInstr = none := by rw [State.currentInstr, hph]; rfl
  simp only [State.engineTurn, hnone, ite_self]

/-- Settles O10: without a schedule a step is the engine's turn, and it has none. -/
theorem idleEngineDoesNothing : Obligations.IdleEngineDoesNothing := by
  intro s hsched h
  rw [step_of_schedule_nil s hsched]
  obtain hb | hph := h
  · exact engineTurn_idle hb
  · exact engineTurn_of_phase_idle hph

theorem State.Inv.live {s : State} (hI : s.Inv) (hb : s.busy = true) : s.inReset = false := by
  by_contra hreset
  simp [hI.resetIdle (by simpa using hreset)] at hb

/-- Settles O7: the latch names the current command, and no command runs in reset. -/
theorem engineStepRunsLatchedCommand : Obligations.EngineStepRunsLatchedCommand := by
  intro s hI hb hsched
  obtain ⟨i, hdec, hcur, -⟩ := currentInstr_spec s hI hb
  exact ⟨i, hdec, (step_of_schedule_nil s hsched).trans (engineTurn_of_current s i hb (hI.live hb) hcur)⟩

/-! ## Completion -/

theorem effect_len (i : Instr) (bs : List Byte) (s : State) : (effect i bs s).len = s.len := by
  simp only [effect_frame s i bs]

/-- The effect of a micro-operation leaves the flags of a running command to the step that it is part of. -/
theorem effect_running (i : Instr) (bs : List Byte) (s : State) :
    (effect i bs s).busy = s.busy ∧ (effect i bs s).done = s.done ∧ (effect i bs s).hseq = s.hseq := by
  simp only [effect_frame s i bs, and_self]

/-- It reports no error. -/
theorem effect_error (i : Instr) (bs : List Byte) (s : State) :
    (effect i bs s).err = s.err ∧ (effect i bs s).ecode = s.ecode ∧ (effect i bs s).eaddr = s.eaddr ∧
      (effect i bs s).ephase = s.ephase := by
  simp only [effect_frame s i bs, and_self]

/-- Settles O39: the answered requests are issued, and the effect reports no error. -/
theorem commandsComplete : Obligations.CommandsComplete := by
  intro i s hw hh hr hans
  obtain ⟨bs, hi⟩ := issue_of_answers s _ hans
  obtain ⟨herr, hcode, headdr, hephase⟩ := effect_error i bs s
  exact ⟨_, exec_ok i s hw hh hr bs _ hi, rfl, rfl, rfl, herr, hcode, headdr, hephase, effect_reads i bs s⟩

/-- Settles O35: the answered requests are issued, and the move after them is that of the `next` table. -/
theorem hashStepCompletes : Obligations.HashStepCompletes := by
  intro e s i hc hr hans
  obtain ⟨bs, hi⟩ := issue_of_answers s _ hans
  have herr := (effect_error i bs s).1
  have hreads := effect_reads i bs s
  refine ⟨_, hash_ok e s i hc hr bs _ hi, ?_⟩
  rw [hashAdvance_eq, effect_len]
  split
  · next hend => exact ⟨herr, hreads, hend.symm, fun hne => absurd rfl hne, fun _ => ⟨rfl, rfl, rfl⟩⟩
  · next hgo => exact ⟨herr, hreads, rfl, fun _ => effect_running i bs s, fun hidle => absurd hidle hgo⟩

/-- Settles O36, by the three ways in which the micro-operation's command can end. -/
theorem hashStepDoesItsMicroOperation : Obligations.HashStepDoesItsMicroOperation := by
  intro e s t i hc herr h
  obtain ⟨-, hh, hph⟩ := microCommand_props e s.phase i hc
  obtain ⟨-, ⟨hr, rfl⟩ | ⟨hr, x, q, hi, rfl⟩ | ⟨hr, bs, hi, rfl⟩⟩ := exec_cases i s t hh h
  · rw [hash_range e s i hc hr, hph]; rfl
  · rw [hash_bus e s i hc hr x q hi, hph]; rfl
  · have hok : (effect i bs s).endCommand.err = false := (effect_error i bs s).1.trans herr
    obtain ⟨hbusy, hdone, -⟩ := effect_running i bs s
    rw [hash_ok e s i hc hr bs _ hi, hashAdvance_eq, effect_len, if_neg (Bool.eq_false_iff.1 hok), ← hbusy, ← hdone]
    exact apply_ite Host.Outcome.next _ _ _

/-! ## No state of the invariant stops -/

/-- A micro-operation command always answers a next state. -/
theorem exists_next_of_not_isHash {i : Instr} (s : State) (hw : i.wf = true) (hh : isHash i = false) :
    ∃ t, exec i s = .next t := by
  rw [exec_eq_finishMicro i s hw hh]
  cases microOf i s <;> exact ⟨_, rfl⟩

/-- HASH does so in a phase of its sequence. -/
theorem exists_next_of_microCommand {e : ByteOrder} {s : State} {i : Instr} (hc : microCommand e s.phase = some i) :
    ∃ t, exec (hashCommand e) s = .next t := by
  simp only [exec_hashCommand, hashStep, hashMicro_eq, hc, Option.map_some]
  cases microOf i s <;> exact ⟨_, rfl⟩

/-- The phase of a running HASH is one of its sequence. -/
theorem State.Inv.exists_microCommand {s : State} (hI : s.Inv) (hq : s.hseq = true) (e : ByteOrder) :
    ∃ i, microCommand e s.phase = some i := by
  have h := hI.progress hq
  unfold State.hashProgress at h
  cases hph : s.phase <;> rw [hph] at h
  case idle | fetch32 | tail32 | mixup => exact h.elim
  all_goals exact ⟨_, rfl⟩

theorem State.Inv.engineTurn_next {s : State} (hI : s.Inv) : ∃ t, s.engineTurn = .next t := by
  cases hb : s.busy with
  | false => exact ⟨s, engineTurn_idle hb⟩
  | true =>
    obtain ⟨i, hdec, hcur, hmicro, hhash⟩ := currentInstr_spec s hI hb
    rw [engineTurn_of_current s i hb (hI.live hb) hcur]
    cases hq : s.hseq with
    | false => exact exists_next_of_not_isHash s (fields_of_decodeFields hdec).1 (hmicro hq).1
    | true =>
      obtain ⟨e, rfl⟩ := hhash hq
      obtain ⟨j, hc⟩ := hI.exists_microCommand hq e
      exact exists_next_of_microCommand hc

/-- Settles O53, by the turn that the step takes; of the actions of host and memory only the store can stop. -/
theorem invariantStatesNeverStop : Obligations.InvariantStatesNeverStop := by
  intro s hI
  unfold step
  split
  · exact .inl hI.engineTurn_next
  · next ev es hsched =>
    cases ev with
    | engine => exact .inl (hI.outside { s with schedule := es } rfl hI.memory).engineTurn_next
    | memWrite x v =>
      by_cases hx : x < s.params.space
      · exact .inl ⟨_, if_pos hx⟩
      · exact .inr ⟨if_neg hx, x, v, es, hsched, Nat.le_of_not_lt hx⟩
    | regRead | regWrite | wait | busFail | busHeal | assertReset | releaseReset => exact .inl ⟨_, rfl⟩

/-! ## The errors of HASH -/

/-- INIT's micro-operation is INIT, which reads nothing. -/
theorem issue_requestsOf_init {e : ByteOrder} {s : State} {i : Instr} (hc : microCommand e s.phase = some i)
    (hph : s.phase = .init) : s.issue (requestsOf i s) = .ok [] [] := by
  rw [hph] at hc; cases hc; rfl

theorem hashAdvance_ecode (ph : Phase) (s : State) : (hashAdvance ph s).ecode = s.ecode := by
  rw [hashAdvance_eq]
  split <;> rfl

/-- Settles O54: after INIT no bound check fails, INIT reads nothing, and a success leaves ECODE clear. -/
theorem hashErrorsAreInitRangeOrBus : Obligations.HashErrorsAreInitRangeOrBus := by
  intro e s t hI hq h
  obtain ⟨-, -, hcode, -⟩ := hI.busy_flags (hI.hseqBusy hq)
  obtain ⟨i, hc, ⟨hr, rfl⟩ | ⟨-, x, q, hi, rfl⟩ | ⟨-, bs, -, rfl⟩⟩ := hash_cases e s t h
  · exact ⟨fun _ => .inr rfl, fun hph => absurd hr (not_rangeFails_of_progress e s i hI hq hc hph)⟩
  · refine ⟨fun hph => ?_, fun _ => .inr rfl⟩
    rw [issue_requestsOf_init hc hph] at hi; cases hi
  · have hnone : (hashAdvance s.phase (effect i bs s)).ecode = .none := by
      simp only [hashAdvance_ecode, effect_frame s i bs, hcode]
    exact ⟨fun _ => .inl hnone, fun _ => .inl hnone⟩

end Sys2Proof.Machine

/-!
HASH as a whole (43_hash_sequence.md R162 to R170): the bytes it asks for, the bulk phase, HASH of nothing, and what the value
depends on. Each starts at `ReadyToHash`, the state after acceptance.
-/

namespace Sys2Proof

/-- `p` with the parameters of the accesses to memory, ADDR_W and UNALIGNED_OK, taken from `q`. -/
def Params.withAccessOf (p q : Params) : Params := { p with addrW := q.addrW, unalignedOk := q.unalignedOk }

/-- Two devices with the same constants and tail layout differ in those alone. -/
theorem Params.eq_withAccessOf {p q : Params} (hq : q.q = p.q) (hp0 : q.p0 = p.p0) (hs : q.s = p.s)
    (hbe : q.beTail = p.beTail) : q = p.withAccessOf q := by
  rw [Params.withAccessOf, ← hq, ← hp0, ← hs, ← hbe]

end Sys2Proof

namespace Sys2Proof.Machine

/-! ## The bytes that HASH asks for -/

/-- Settles O56, from the account of the reads that a run keeps. -/
theorem hashReadsEachByteOnce : Obligations.HashReadsEachByteOnce := by
  intro e s bs _ hreset hsched haddr hfits hlen hmem hans
  have hready := readyToHash_acceptCommand e s bs hreset hsched haddr hfits hlen hmem hans
  obtain ⟨t, ⟨hrun, -⟩, -, -, -, new, hreads, hasked⟩ := hready.run_hash
  rw [acceptCommand_hash] at *
  exact ⟨_, new, hrun, rfl, rfl, hreads, hasked⟩

/-! ## The bulk phase -/

/-- P is the start of the bytes that are left, modulo 2^ADDR_W. -/
theorem HashAt.p_toNat {e : ByteOrder} {u t : State} {ph : Phase} {x : TailState} (h : HashAt e u ph x t) :
    t.p.toNat = (u.addr.toNat + u.len.toNat - x.rest.length) % u.params.space := by
  obtain ⟨-, -, hp⟩ := h.place
  rw [hp, h.left, h.frame.addr, h.frame.len, h.frame.params]

namespace State.ReadyToHash

variable {e : ByteOrder} {bs : List Byte} {u : State}

/-- A HASH of more than 16 bytes is at its first block after two steps (43_hash_sequence.md R162). -/
theorem run_toBulk (h : u.ReadyToHash e bs) (hlong : 16 < bs.length) :
    ∃ v t, busyRun 2 u t ∧ t.acc = v ∧ HashAt e u .bulkBlock ⟨v.a, v.b, bs⟩ t := by
  obtain ⟨t1, r1, h1⟩ := h.run_init
  rw [if_pos hlong] at h1
  obtain ⟨t2, r2, h2, hv⟩ := h1.run_bulkSetup
  exact ⟨_, t2, r1.trans r2, hv, h2⟩

/-- After fewer than floor(LEN / 16) blocks the engine is still in the block phase (R163). -/
theorem bulkBlock_after (h : u.ReadyToHash e bs) (hlong : 16 < bs.length) {k : Nat} (hk : k < bs.length / 16) :
    ∃ t, runsTo (2 + k) u t ∧ t.phase = .bulkBlock := by
  obtain ⟨v, t, r, hv, ht⟩ := h.run_toBulk hlong
  obtain ⟨t', r', -, ht'⟩ := ht.run_blocks k hv (by omega)
  exact ⟨t', (r.trans r').1, ht'.phase⟩

/-- After floor(LEN / 16) blocks the bulk phase is over (R163). -/
theorem bulkFold_after (h : u.ReadyToHash e bs) (hlong : 16 < bs.length) :
    ∃ t, runsTo (2 + bs.length / 16) u t ∧ t.phase = .bulkFold ∧ t.n.toNat = bs.length % 16 ∧
      t.p.toNat = (u.addr.toNat + 16 * (bs.length / 16)) % u.params.space := by
  obtain ⟨v, t, r, hv, ht⟩ := h.run_toBulk hlong
  obtain ⟨t', r', -, ht'⟩ := ht.run_allBlocks hv hlong.le
  have hlen := h.length
  refine ⟨t', (r.trans r').1, ht'.phase, ?_, ?_⟩
  · rw [ht'.left, List.length_drop]
    omega
  · rw [ht'.p_toNat, List.length_drop]
    congr 1
    omega

/-- A HASH of at most 16 bytes has no bulk phase (R162, R164). -/
theorem tailQ4_after (h : u.ReadyToHash e bs) (hshort : bs.length ≤ 16) :
    ∃ t, runsTo 1 u t ∧ t.phase = .tailQ4 ∧ t.n = u.len ∧ t.p = u.addr := by
  obtain ⟨t, r, ht⟩ := h.run_init
  rw [if_neg (Nat.not_lt.2 hshort)] at ht
  have hp : t.p.toNat = (u.addr.toNat + u.len.toNat - bs.length) % u.params.space := ht.p_toNat
  rw [h.length, Nat.add_sub_cancel, Nat.mod_eq_of_lt h.addrBound] at hp
  exact ⟨t, r.1, ht.phase, BitVec.eq_of_toNat_eq (ht.left.trans h.length), BitVec.eq_of_toNat_eq hp⟩

end State.ReadyToHash

/-- Settles O57, by the runs to each block, to the fold, and of INIT alone. -/
theorem hashBulkPhase : Obligations.HashBulkPhase := by
  intro e s bs _ hreset hsched haddr hfits hlen hmem hans
  have hready := readyToHash_acceptCommand e s bs hreset hsched haddr hfits hlen hmem hans
  rw [← hlen]
  refine ⟨fun hlong => ⟨fun k hk => hready.bulkBlock_after hlong hk, ?_⟩, fun hshort => ?_⟩
  · have hfold := hready.bulkFold_after hlong
    rw [acceptCommand_hash] at *
    exact hfold
  · have htail := hready.tailQ4_after hshort
    rw [acceptCommand_hash] at *
    exact htail

/-! ## The requests of a run -/

/-- A step with nothing scheduled leaves nothing scheduled, and what it adds to the history asks for a byte or more. -/
theorem step_reads {s t : State} (hsched : s.schedule = []) (h : step s = .next t) :
    t.schedule = [] ∧ ∃ new, t.reads = s.reads ++ new ∧ ∀ q ∈ new, 0 < q.size := by
  have hstay : s.schedule = [] ∧ ∃ new, s.reads = s.reads ++ new ∧ ∀ q ∈ new, 0 < q.size :=
    ⟨hsched, [], (List.append_nil _).symm, fun _ hq => absurd hq List.not_mem_nil⟩
  rw [step_of_schedule_nil s hsched, State.engineTurn] at h
  split at h
  · split at h
    · next i _ =>
      obtain ⟨new, hreads, -, hsize⟩ := readsStayInsideBuffer i s t h
      obtain ⟨-, -, -, -, -, -, -, -, -, -, -, -, hsched', -⟩ := engineNeverWritesInputsOrMemory i s t h
      refine ⟨hsched'.trans hsched, new, hreads, fun q hq => ?_⟩
      obtain ⟨-, -, -, hone | ⟨hfour, -⟩⟩ := hsize q hq <;> omega
    · cases h; exact hstay
  · cases h; exact hstay

/-- A run of at least one step, taken apart at its first. -/
theorem exists_step_of_runsTo_succ {k : Nat} {s u : State} (h : runsTo (k + 1) s u) :
    ∃ t, step s = .next t ∧ runsTo k t u := by
  cases hs : core.step s with
  | next t => exact ⟨t, hs, (runsTo_succ k s t u hs).1 h⟩
  | fault r => simp only [runsTo, Host.Core.run, hs, reduceCtorEq] at h
  | refused r => simp only [runsTo, Host.Core.run, hs, reduceCtorEq] at h

/-- What a run of the engine adds to the history asks for a byte or more, request by request. -/
theorem runsTo_reads {k : Nat} {s t : State} (hsched : s.schedule = []) (h : runsTo k s t) :
    ∃ new, t.reads = s.reads ++ new ∧ ∀ q ∈ new, 0 < q.size := by
  induction k generalizing s with
  | zero => cases h; exact ⟨[], (List.append_nil _).symm, fun _ hq => absurd hq List.not_mem_nil⟩
  | succ k ih =>
    obtain ⟨s', hs, hrun⟩ := exists_step_of_runsTo_succ h
    obtain ⟨hsched', first, hfirst, hsize⟩ := step_reads hsched hs
    obtain ⟨more, hmore, hsize'⟩ := ih hsched' hrun
    refine ⟨first ++ more, by rw [hmore, hfirst, List.append_assoc], fun q hq => ?_⟩
    exact (List.mem_append.1 hq).elim (hsize q) (hsize' q)

/-- Such requests ask for no byte only when there are none. -/
theorem eq_nil_of_askedBytes {qs : List Request} (hsize : ∀ q ∈ qs, 0 < q.size) (h : askedBytes qs = []) : qs = [] := by
  refine List.eq_nil_iff_forall_not_mem.2 fun q hq => ?_
  have hnone : q.size = 0 := List.range'_eq_nil_iff.1 (List.flatMap_eq_nil_iff.1 h q hq)
  exact absurd hnone (hsize q hq).ne'

/-! ## HASH of nothing -/

theorem rotl32_zero (r : Nat) : rotl32 0#32 r = 0#32 := by simp [rotl32]

/-- With no byte left the cascade mixes nothing (90_conflicts.md C1). -/
theorem cascade_of_rest_nil (p : Params) (e : ByteOrder) (a b : Word) : cascade p e ⟨a, b, []⟩ = ⟨a, b, []⟩ := rfl

/-- INIT of no byte takes A and B from the halves of the seed (41_mixer_bulk.md R120), and REMIX follows (R167). -/
theorem hashValue_nil (p : Params) (e : ByteOrder) (seed : Dword) :
    hashValue p e [] seed = (remix32 p (seed.setWidth 32) ((seed >>> 32).setWidth 32)).2 := by
  have ha : initA p 0 seed = seed.setWidth 32 := by
    rw [initA, show lo32 0 = 0#32 from rfl, rotl32_zero, BitVec.zero_add, lo32_eq_setWidth]
  have hb : initB 0 seed = (seed >>> 32).setWidth 32 := by
    rw [initB, show lo32 0 = 0#32 from rfl, BitVec.zero_xor, hi32_eq_setWidth]
  have hbefore : beforeTail p e [] seed = ⟨initA p 0 seed, initB 0 seed, []⟩ := rfl
  rw [hashValue, hbefore, cascade_of_rest_nil, ha, hb]

theorem remix32_zero (p : Params) : (remix32 p 0 0).2 = 0 := by
  have hl : pair64 0 (0 ^^^ rotl32 0 13) = 0#64 := by decide
  simp only [remix32, hl, BitVec.zero_mul, BitVec.zero_xor, BitVec.zero_ushiftRight]
  rfl

/-- Settles O58: the run over no bytes, whose requests ask for none. -/
theorem hashOfNothingReadsNothing : Obligations.HashOfNothingReadsNothing := by
  intro e s _ hreset hsched hlen haddr
  have hlen0 : s.len.toNat = 0 := by rw [hlen]; rfl
  obtain ⟨hmem, hans, -⟩ := s.delivers_nil s.addr.toNat
  have hready := readyToHash_acceptCommand e s [] hreset hsched haddr (by omega) hlen0.symm hmem hans
  obtain ⟨t, ⟨hrun, -⟩, -, -, -, new, hreads, hasked⟩ := hready.run_hash
  obtain ⟨new', hreads', hsize⟩ := runsTo_reads hready.runs.alone hrun
  rw [acceptCommand_hash] at *
  obtain rfl : new = new' := List.append_cancel_left (hreads.symm.trans hreads')
  have hnone : new = [] := eq_nil_of_askedBytes hsize (hasked.trans (List.range'_eq_nil_iff.2 hlen0))
  rw [hnone, List.append_nil] at hreads
  have hres := hashValue_nil s.params e s.seed
  refine ⟨_, hrun, rfl, rfl, hreads, hres, fun hseed => hres.trans ?_⟩
  rw [hseed]
  exact remix32_zero s.params

/-! ## What the value depends on -/

theorem bulkLoop_withAccessOf (p q : Params) (e : ByteOrder) (k : Nat) (v : Acc) (bs : List Byte) :
    bulkLoop (p.withAccessOf q) e k v bs = bulkLoop p e k v bs := by
  induction k generalizing v bs with
  | zero => rfl
  | succ k ih => exact ih _ _

theorem beforeTail_withAccessOf (p q : Params) (e : ByteOrder) (bs : List Byte) (seed : Dword) :
    beforeTail (p.withAccessOf q) e bs seed = beforeTail p e bs seed := by
  simp only [beforeTail, bulkLoop_withAccessOf]
  rfl

/-- No formula of the hash uses ADDR_W or UNALIGNED_OK. -/
theorem hashValue_withAccessOf (p q : Params) (e : ByteOrder) (bs : List Byte) (seed : Dword) :
    hashValue (p.withAccessOf q) e bs seed = hashValue p e bs seed := by
  rw [hashValue, beforeTail_withAccessOf]
  rfl

/-- Settles O59: each run leaves the hash of the bytes, and the two devices' parameters give the same one. -/
theorem hashDependsOnItsInputsOnly : Obligations.HashDependsOnItsInputsOnly := by
  intro e s u bs _ hsreset hssched hsaddr hsfits hslen hsmem hsans _ hureset husched huaddr hufits hul huseed humem huans
    hq hp0 hps hbe
  have hs := readyToHash_acceptCommand e s bs hsreset hssched hsaddr hsfits hslen hsmem hsans
  have hu := readyToHash_acceptCommand e u bs hureset husched huaddr hufits (by rw [hslen, hul]) humem huans
  obtain ⟨s', ⟨hsrun, -⟩, -⟩ := hs.run_hash
  obtain ⟨u', ⟨hurun, -⟩, -⟩ := hu.run_hash
  refine ⟨_, _, hsrun, hurun, ?_⟩
  have hvalue : hashValue u.params e bs u.seed = hashValue s.params e bs s.seed := by
    rw [Params.eq_withAccessOf hq hp0 hps hbe, hashValue_withAccessOf, huseed]
  rw [acceptCommand_hash, acceptCommand_hash]
  exact hvalue.symm

end Sys2Proof.Machine

/-!
Errors and the interrupt line (60_exceptions.md): what each error records and leaves alone, the level of done_irq, and that
nothing but the engine and reset touches a running command.
-/

namespace Sys2Proof.Machine

/-! ## Errors -/

/-- Settles O37: the failed check ends the command, and otherwise ECODE is BUS or as it was. -/
theorem rangeErrors : Obligations.RangeErrors := by
  intro i s hh hp haddr
  refine ⟨fun hr => ?_, fun t hr hcode h => ?_⟩
  · refine exec_of_rangeFails hh hr (apply_ite BitVec.toNat _ _ _).symm ?_
    split
    · exact haddr
    · exact hp
  · obtain ⟨-, ⟨hr', -⟩ | ⟨-, x, q, -, rfl⟩ | ⟨-, bs, -, rfl⟩⟩ := exec_cases i s t hh h
    · exact absurd hr' hr
    · exact (by decide : ECode.bus ≠ .range)
    · have hkeep : (effect i bs s).endCommand.ecode = .none := (effect_error i bs s).2.1.trans hcode
      rw [hkeep]
      decide

/-- Settles O38: the requests up to the failing one are noted, and ALIGNBUF is not staged. -/
theorem busErrors : Obligations.BusErrors := fun _ _ _ _ hh hr hf => exec_of_failsAt hh hr hf

/-- Settles O44: an error's report writes no data register, and a step without one leaves ERR at 0. -/
theorem errorsWriteNoDataRegister : Obligations.ErrorsWriteNoDataRegister := by
  intro i s t herr h ht
  obtain ⟨ph, x, rfl⟩ | ⟨ph, x, q, rfl⟩ | ⟨j, bs, -, hstep⟩ := exec_outcome h
  · exact ⟨rfl, rfl, rfl, rfl, rfl, rfl, rfl, rfl⟩
  · exact ⟨rfl, rfl, rfl, rfl, rfl, rfl, rfl, rfl⟩
  · have hkeep : t.err = s.err := (congrArg State.err hstep).trans (effect_error j bs s).1
    rw [hkeep, herr] at ht
    cases ht

/-! ## done_irq -/

/-- A bit that is read as a field of one bit. -/
theorem getLsbD_of_extractLsb' {v : Dword} {i : Nat} {b : Bool} (h : v.extractLsb' i 1 = BitVec.ofBool b) :
    v.getLsbD i = b := by
  have h0 : (v.extractLsb' i 1).getLsbD 0 = (BitVec.ofBool b).getLsbD 0 := congrArg (BitVec.getLsbD · 0) h
  simpa using h0

theorem doneIrq_of_err {s : State} (h : s.err = true) : s.doneIrq = true := by rw [State.doneIrq, h, Bool.or_true]

/-- A step that ends a command raises done_irq: with ERR after an error, else with DONE (60_exceptions.md R189). -/
theorem exec_doneIrq {i : Instr} {s t : State} (hb : s.busy = true) (h : exec i s = .next t) (ht : t.busy = false) :
    t.doneIrq = true := by
  rcases isHash_cases i with hh | ⟨e, rfl⟩
  · obtain ⟨-, ⟨-, rfl⟩ | ⟨-, x, q, -, rfl⟩ | ⟨-, bs, -, rfl⟩⟩ := exec_cases i s t hh h
    · exact doneIrq_of_err rfl
    · exact doneIrq_of_err rfl
    · rfl
  · obtain ⟨j, -, ⟨-, rfl⟩ | ⟨-, x, q, -, rfl⟩ | ⟨-, bs, -, rfl⟩⟩ := hash_cases e s t h
    · exact doneIrq_of_err rfl
    · exact doneIrq_of_err rfl
    · rw [hashAdvance_eq] at ht ⊢
      split at ht
      · next hend => rw [if_pos hend]; rfl
      · have hrun : (effect j bs s).busy = true := (effect_running j bs s).1.trans hb
        rw [State.setPhase_busy, hrun] at ht
        cases ht

/-- Settles O15, clause by clause. -/
theorem doneIrqLevel : Obligations.DoneIrqLevel := by
  intro s
  obtain ⟨-, hdone, herr, -⟩ := statusWord_fields s
  refine ⟨?_, fun i t hb h ht => exec_doneIrq hb h ht, fun v i hb hlive hdec => ?_, fun v r hb hlive hdec => ?_,
    fun hlive => ?_, rfl⟩
  · rw [State.readReg, getLsbD_of_extractLsb' hdone, getLsbD_of_extractLsb' herr, State.doneIrq]
  · rw [hostWrite_idle s .cmd v hlive hb, State.storeReg, acceptCommand_legal hdec]
    rfl
  · rw [hostWrite_idle s .cmd v hlive hb, State.storeReg, acceptCommand_illegal hdec]
    rfl
  · rw [hostWrite_status s _ hlive, writeStatus_eq]
    simp [State.doneIrq]

/-! ## What host and memory may change while a command runs -/

/-- `s` with what host and memory may change while a command runs taken from `w`: the flags that a STATUS write clears, OVR,
the memory and its bus errors, and the model's account of the port and the coming actions. -/
def State.withOutsideActionsOf (s w : State) : State :=
  { s with
    done := w.done, err := w.err, ovr := w.ovr, ecode := w.ecode, ephase := w.ephase, inReset := w.inReset, mem := w.mem,
    failing := w.failing, held := w.held, rdata := w.rdata, schedule := w.schedule }

theorem hostWrite_whileBusy {s : State} (hb : s.busy = true) (hlive : s.inReset = false) (r : Reg) (v : Dword) :
    s.hostWrite r v = s.withOutsideActionsOf (s.hostWrite r v) := by
  by_cases hr : r = .status
  · rw [hr, hostWrite_status s v hlive, writeStatus_eq]; rfl
  · rw [hostWrite_busy s r v hlive hb hr]; rfl

theorem poll_whileBusy (s : State) : s.poll = s.withOutsideActionsOf s.poll := by
  simp only [State.poll]
  split <;> rfl

/-- No action but the engine's turn and reset changes anything else of a running command (60_exceptions.md R186, R190). -/
theorem takeTurn_whileBusy {s t : State} {ev : Event} (hb : s.busy = true) (hlive : s.inReset = false)
    (hengine : ev ≠ .engine) (hreset : ev ≠ .assertReset) (h : s.takeTurn ev = .next t) :
    t = s.withOutsideActionsOf t := by
  cases ev with
  | engine => exact absurd rfl hengine
  | assertReset => exact absurd rfl hreset
  | regWrite r v => cases h; exact hostWrite_whileBusy hb hlive r v
  | wait => cases h; exact poll_whileBusy s
  | memWrite x v =>
    simp only [State.takeTurn] at h
    split at h
    · cases h; rfl
    · cases h
  | regRead | busFail | busHeal | releaseReset => cases h; rfl

/-- Settles O16: none of these fields is among those that the actions may change. -/
theorem runningCommandIsUndisturbed : Obligations.RunningCommandIsUndisturbed := by
  intro s t ev hb hlive hengine hreset h
  rw [takeTurn_whileBusy hb hlive hengine hreset h]
  exact ⟨hb, rfl, rfl, rfl, rfl, rfl, rfl, rfl, rfl, rfl, rfl, rfl, rfl, rfl, rfl, rfl, rfl, rfl⟩

end Sys2Proof.Machine

/-!
HASH and its micro-operations issued one at a time (60_exceptions.md R198). `State.agrees` ties a state of the running HASH to
one of the device that takes the commands singly; each step of the one and command of the other keep it, since the effect of a
micro-operation looks at no control field. `sideBySide` puts such steps in a row along the run of HASH.
-/

namespace Sys2Proof.Machine

/-! ## What the control fields have no part in -/

/-- `s` with the fields that acceptance and the end of a command write taken from `w`. -/
def State.withControlOf (s w : State) : State :=
  { s with
    cmd := w.cmd, busy := w.busy, done := w.done, err := w.err, ecode := w.ecode, phase := w.phase, hseq := w.hseq,
    ecur := w.ecur, ephase := w.ephase, cur := w.cur }

section Control
variable (s w : State)

theorem bytesAt_withControlOf (x n : Nat) : (s.withControlOf w).bytesAt x n = s.bytesAt x n := by
  induction n generalizing x with
  | zero => rfl
  | succ n ih => simp only [State.bytesAt, ih]; rfl

theorem issue_withControlOf (qs : List Request) : (s.withControlOf w).issue qs = s.issue qs := by
  induction qs with
  | nil => rfl
  | cons q qs ih =>
    have hread : (s.withControlOf w).memRead q = s.memRead q := by
      simp only [State.memRead, bytesAt_withControlOf]
      rfl
    simp only [State.issue, hread, ih]

theorem requestsOf_withControlOf (i : Instr) : requestsOf i (s.withControlOf w) = requestsOf i s := by cases i <;> rfl

theorem rangeFails_withControlOf (i : Instr) : rangeFails i (s.withControlOf w) ↔ rangeFails i s := by
  cases i <;> exact Iff.rfl

/-- The effect of a micro-operation neither looks at a control field nor writes one. -/
theorem effect_withControlOf (i : Instr) (bs : List Byte) :
    effect i bs (s.withControlOf w) = (effect i bs s).withControlOf w := by
  cases i with
  | tailQ4Le | tailQ4Be | tailQ3Le | tailQ3Be | tailQ2Le | tailQ2Be | tailQ1Le | tailQ1Be =>
    simp only [effect, tailEffect, tailQ1Effect, apply_ite (State.withControlOf · w)]
    rfl
  | _ => rfl

end Control

/-! ## One command beside one step -/

/-- `v` differs from the running HASH's state `t` only in control fields, but for the bytes changed during an earlier command,
which acceptance forgets (20_memory.md R63). -/
def State.agrees (t v : State) : Prop := { v with held := [] } = t.withControlOf v

/-- Devices that agree have the same data and the same read history. -/
theorem State.agrees.data {t v : State} (h : t.agrees v) :
    v.res = t.res ∧ v.a = t.a ∧ v.b = t.b ∧ v.c = t.c ∧ v.d = t.d ∧ v.p = t.p ∧ v.n = t.n ∧ v.w = t.w ∧
      v.reads = t.reads := by
  have field {α : Type} (f : State → α) : f { v with held := [] } = f (t.withControlOf v) := congrArg f h
  exact ⟨field State.res, field State.a, field State.b, field State.c, field State.d, field State.p, field State.n,
    field State.w, field State.reads⟩

theorem State.agrees.acceptCommand {t v : State} (h : t.agrees v) {x : Dword} {i : Instr}
    (hdec : decodeCommand x = .legal i) : v.acceptCommand x = t.withControlOf (v.acceptCommand x) := by
  have hheld : [] = t.held := congrArg State.held h
  rw [acceptCommand_legal hdec, State.withControlOf, ← hheld]
  exact congrArg (fun s => (s.noteCommand x).startCommand x i) h

/-- A command whose micro-operation succeeds in the running HASH does, accepted on its own, the same. -/
theorem State.agrees.exec_micro {e : ByteOrder} {ph : Phase} {i : Instr} {t v : State} {bs : List Byte}
    {qs : List Request} (h : t.agrees v) (hc : microCommand e ph = some i) (hr : ¬rangeFails i t)
    (hi : t.issue (requestsOf i t) = .ok bs qs) :
    ∃ v', exec i (v.acceptCommand (commandValue i)) = .next v' ∧ v'.done = true ∧ (effect i bs t).agrees v' := by
  obtain ⟨hw, hh, -⟩ := microCommand_props e ph i hc
  have hheld : [] = t.held := congrArg State.held h
  have haccept := h.acceptCommand (decodeOfEncode i hw)
  generalize v.acceptCommand (commandValue i) = w at haccept ⊢
  have hexec := exec_ok i (t.withControlOf w) hw hh ((rangeFails_withControlOf t w i).not.2 hr) bs qs
    (by rw [requestsOf_withControlOf, issue_withControlOf, hi])
  rw [effect_withControlOf, ← haccept] at hexec
  refine ⟨((effect i bs t).withControlOf w).endCommand, hexec, rfl, ?_⟩
  have hkeep : (effect i bs t).held = [] := by simp only [effect_frame t i bs, ← hheld]
  rw [State.agrees, ← hkeep]
  rfl

/-- The commands one after the other, in two parts. -/
theorem runCommands_append {is js : List Instr} {s t : State} (h : runCommands is s = .next t) :
    runCommands (is ++ js) s = runCommands js t := by
  induction is generalizing s with
  | nil => cases h; rfl
  | cons i is ih =>
    simp only [List.cons_append, runCommands] at h ⊢
    cases hi : exec i (s.acceptCommand (commandValue i)) with
    | next s' => rw [hi] at h; exact ih h
    | fault r => rw [hi] at h; cases h
    | refused r => rw [hi] at h; cases h

/-! ## The two runs side by side -/

/-- HASH runs from `t` to `t'` in as many steps as there are commands in `is`, and these, issued one at a time to a device that
agrees with `t`, lead to one that agrees with `t'`. -/
def sideBySide (is : List Instr) (t t' : State) : Prop :=
  runsTo is.length t t' ∧ ∀ v, t.agrees v → ∃ v', runCommands is v = .next v' ∧ t'.agrees v'

theorem sideBySide.trans {is js : List Instr} {s t u : State} (h : sideBySide is s t) (g : sideBySide js t u) :
    sideBySide (is ++ js) s u := by
  obtain ⟨hrun, hcommands⟩ := h
  obtain ⟨grun, gcommands⟩ := g
  refine ⟨List.length_append ▸ runsTo_trans _ _ s t u hrun grun, fun v hv => ?_⟩
  obtain ⟨v1, h1, hv1⟩ := hcommands v hv
  obtain ⟨v2, h2, hv2⟩ := gcommands v1 hv1
  exact ⟨v2, (runCommands_append h1).trans h2, hv2⟩

/-- The step of a device that runs HASH is a step of HASH. -/
theorem State.RunsHash.step_eq_exec {e : ByteOrder} {s : State} (h : s.RunsHash e) (hidle : s.phase ≠ .idle) :
    Machine.step s = exec (hashCommand e) s := by
  have hcur : s.currentInstr = some (hashCommand e) := by
    rw [State.currentInstr, h.hseq, commandAt_hash _ _ hidle, h.variant]
    cases e <;> rfl
  rw [step_of_schedule_nil s h.alone, engineTurn_of_current s _ h.busy h.live hcur]

/-- A step after which HASH still runs met no error, and its command is the one that the phase names. -/
theorem State.RunsHash.sideBySide_one {e : ByteOrder} {t t' : State} {i : Instr} (h : t.RunsHash e)
    (hc : microCommand e t.phase = some i) (hrun : busyRun 1 t t') (hb : t'.busy = true) : sideBySide [i] t t' := by
  refine ⟨hrun.1, fun v hv => ?_⟩
  obtain ⟨t1, hstep, hdone⟩ := exists_step_of_runsTo_succ hrun.1
  cases hdone
  rw [h.step_eq_exec fun hidle => by rw [hidle] at hc; cases hc] at hstep
  obtain ⟨j, hj, ⟨-, rfl⟩ | ⟨-, x, q, -, rfl⟩ | ⟨hr, bs, hi, rfl⟩⟩ := hash_cases e t t' hstep
  · cases hb
  · cases hb
  · cases hc.symm.trans hj
    obtain ⟨v', hexec, -, hv'⟩ := hv.exec_micro hc hr hi
    refine ⟨v', by simp only [runCommands, hexec], ?_⟩
    rw [hashAdvance_eq]
    split <;> exact hv'

namespace HashAt

variable {e : ByteOrder} {u t t' : State} {ph ph' : Phase} {x y : TailState} {i : Instr} {v : Acc} {rest : List Byte}

theorem sideBySide_one (h : HashAt e u ph x t) (hrun : busyRun 1 t t') (h' : HashAt e u ph' y t')
    (hc : microCommand e ph = some i) : sideBySide [i] t t' :=
  h.runs.sideBySide_one (h.phase.symm ▸ hc) hrun h'.runs.busy

/-- The block phase, one BULK.BLOCK for each whole block (43_hash_sequence.md R163). -/
theorem sideBySide_blocks (h : HashAt e u .bulkBlock ⟨v.a, v.b, rest⟩ t) (hv : t.acc = v) (hlen : 16 ≤ rest.length) :
    ∃ t' v' rest', sideBySide (List.replicate (rest.length / 16) (blockCommand e)) t t' ∧ t'.acc = v' ∧
      HashAt e u .bulkFold ⟨v'.a, v'.b, rest'⟩ t' ∧ rest'.length < 16 := by
  obtain ⟨k, hk⟩ : ∃ k, rest.length / 16 = k + 1 := ⟨rest.length / 16 - 1, by omega⟩
  rw [hk]
  induction k generalizing t v rest with
  | zero =>
    obtain ⟨t1, r1, hv1, h1⟩ := h.run_bulkBlock hv hlen
    rw [if_neg (by omega)] at h1
    exact ⟨t1, _, _, h.sideBySide_one r1 h1 rfl, hv1, h1, by rw [List.length_drop]; omega⟩
  | succ k ih =>
    obtain ⟨t1, r1, hv1, h1⟩ := h.run_bulkBlock hv hlen
    rw [if_pos (by omega)] at h1
    have hdrop : (rest.drop 16).length = rest.length - 16 := List.length_drop
    obtain ⟨t2, v2, rest2, r2, h2⟩ := ih h1 hv1 (by omega) (by omega)
    exact ⟨t2, v2, rest2, (h.sideBySide_one r1 h1 rfl).trans r2, h2⟩

/-- The four tail phases. -/
theorem sideBySide_cascade (h : HashAt e u .tailQ4 x t) (hlen : x.rest.length ≤ 16) :
    ∃ t' y, sideBySide [tailQ4Command e, tailQ3Command e, tailQ2Command e, tailQ1Command e] t t' ∧
      HashAt e u .remix y t' := by
  obtain ⟨t1, r1, h1⟩ := h.run_tailQ4 hlen
  have l1 := wordStep_length_le 13 (mixIntoAB u.params.q[4]) e x hlen (by decide)
  obtain ⟨t2, r2, h2⟩ := h1.run_tailQ3 l1
  have l2 := wordStep_length_le 9 (mixIntoBA u.params.q[3]) e (cascade4 u.params e x) l1 (by decide)
  obtain ⟨t3, r3, h3⟩ := h2.run_tailQ2 l2
  have l3 := wordStep_length_le 5 (mixIntoAB u.params.q[2]) e (cascade3 u.params e (cascade4 u.params e x)) l2 (by decide)
  obtain ⟨t4, r4, h4⟩ := h3.run_tailQ1 l3
  exact ⟨t4, _, (((h.sideBySide_one r1 h1 rfl).trans (h1.sideBySide_one r2 h2 rfl)).trans
    (h2.sideBySide_one r3 h3 rfl)).trans (h3.sideBySide_one r4 h4 rfl), h4⟩

end HashAt

/-- The commands before the tail steps (43_hash_sequence.md R160). -/
def commandsBeforeTail (e : ByteOrder) (len : Nat) : List Instr :=
  [.init] ++ if 16 < len then [.bulkSetup] ++ List.replicate (len / 16) (blockCommand e) ++ [.bulkFold] else []

theorem hashCommands_eq (e : ByteOrder) (len : Nat) :
    hashCommands e len =
      commandsBeforeTail e len ++ [tailQ4Command e, tailQ3Command e, tailQ2Command e, tailQ1Command e] ++ [.remix] := by
  rw [List.append_assoc]
  rfl

theorem length_hashCommands (e : ByteOrder) (len : Nat) : (hashCommands e len).length = hashSteps len := by
  unfold hashCommands hashSteps
  split <;> split <;> simp <;> omega

namespace State.ReadyToHash

variable {e : ByteOrder} {bs : List Byte} {u : State}

theorem sideBySide_toTail (h : u.ReadyToHash e bs) :
    ∃ t x, sideBySide (commandsBeforeTail e bs.length) u t ∧ HashAt e u .tailQ4 x t ∧ x.rest.length ≤ 16 := by
  obtain ⟨t1, r1, h1⟩ := h.run_init
  have s1 : sideBySide [.init] u t1 := h.runs.sideBySide_one (by rw [h.phase]; rfl) r1 h1.runs.busy
  unfold commandsBeforeTail
  split at h1
  · next hlong =>
    obtain ⟨t2, r2, h2, hv2⟩ := h1.run_bulkSetup
    obtain ⟨t3, v, rest, s3, hv3, h3, hlen⟩ := HashAt.sideBySide_blocks
      (v := setupAcc (initA u.params u.len u.seed) (initB u.len u.seed)) h2 hv2 hlong.le
    obtain ⟨t4, r4, h4⟩ := h3.run_bulkFold hv3
    rw [if_pos hlong]
    exact ⟨t4, _, s1.trans (((h1.sideBySide_one r2 h2 rfl).trans s3).trans (h3.sideBySide_one r4 h4 rfl)), h4, hlen.le⟩
  · next hshort =>
    rw [if_neg hshort]
    exact ⟨t1, _, s1, h1, Nat.le_of_not_lt hshort⟩

/-- Both runs to their end, where HASH has done what REMIX does. -/
theorem sideBySide_toEnd (h : u.ReadyToHash e bs) {s : State} (hs : u.agrees s) :
    ∃ r v : State, runsTo (hashSteps bs.length) u r.endHash ∧ runCommands (hashCommands e bs.length) s = .next v ∧
      v.done = true ∧ r.agrees v := by
  obtain ⟨t1, x1, s1, h1, hlen⟩ := h.sideBySide_toTail
  obtain ⟨t, x, s2, ht⟩ := h1.sideBySide_cascade hlen
  obtain ⟨hrun, hcommands⟩ := s1.trans s2
  obtain ⟨v1, hv1, hagrees1⟩ := hcommands s hs
  obtain ⟨v, hremix, hdone, hagrees⟩ :=
    hagrees1.exec_micro (e := e) (ph := .remix) (i := .remix) rfl not_false (bs := []) (qs := []) rfl
  have hm : hashMicro e t.phase t = some (.ok (effect .remix [] t)) := by rw [ht.phase]; rfl
  have hstep : step t = .next (effect .remix [] t).endHash := by rw [ht.runs.step hm, ht.phase]; rfl
  refine ⟨effect .remix [] t, v, ?_, ?_, hdone, hagrees⟩
  · rw [← length_hashCommands e, hashCommands_eq, List.length_append]
    exact runsTo_trans _ 1 u t _ hrun ((runsTo_succ 0 t _ _ hstep).2 rfl)
  · rw [hashCommands_eq, runCommands_append hv1]
    simp only [runCommands, hremix]

end State.ReadyToHash

/-- Settles O60: the idle device agrees with the one that has accepted HASH, and both runs keep that to their end. -/
theorem singleSteppedHashAgrees : Obligations.SingleSteppedHashAgrees := by
  intro e s bs _ hreset hsched haddr hfits hlen hmem hans
  have hready := readyToHash_acceptCommand e s bs hreset hsched haddr hfits hlen hmem hans
  have hagrees : (s.acceptCommand (commandValue (hashCommand e))).agrees s := by rw [acceptCommand_hash]; rfl
  obtain ⟨r, v, hrun, hcommands, hdone, hv⟩ := hready.sideBySide_toEnd hagrees
  obtain ⟨hres, ha, hb, hc, hd, hp, hn, hw, hreads⟩ := hv.data
  exact ⟨r.endHash, v, hrun, hcommands, hres, ha, hb, hc, hd, hp, hn, hw, hreads, hdone, rfl⟩

end Sys2Proof.Machine

/-!
Reset, and the end of a command (70_reset_and_hazards.md): what asserting reset leaves of any state, what host and engine can
do until it is released, and that a command which has ended shows exactly one of DONE and ERR.
-/

namespace Sys2Proof.Machine

/-! ## Reset -/

/-- While reset is asserted a register reads as in the reset state: what survives it no slot shows. -/
theorem readReg_assertReset (s : State) (r : Reg) : s.assertReset.readReg r = 0 := by
  obtain ⟨hzero, -⟩ := resetValues s.params
  have hsame : s.assertReset.readReg r = (State.resetWith s.params).readReg r := by cases r <;> rfl
  exact hsame.trans (hzero r)

theorem hostWrite_inReset {s : State} (hreset : s.inReset = true) (r : Reg) (v : Dword) : s.hostWrite r v = s :=
  if_pos hreset

theorem hostRead_inReset {s : State} (hreset : s.inReset = true) (r : Reg) : s.hostRead r = { s with rdata := 0 } := by
  rw [State.hostRead, State.portValue, if_pos hreset]

/-- An idle device out of reset runs a legal command once the host has written it to CMD (30_encoding.md R90). -/
theorem hostWrite_cmd_busy {s : State} {v : Dword} {i : Instr} (hlive : s.inReset = false) (hb : s.busy = false)
    (hdec : decodeCommand v = .legal i) : (s.hostWrite .cmd v).busy = true := by
  rw [hostWrite_idle s .cmd v hlive hb, State.storeReg, acceptCommand_legal hdec]
  rfl

/-- Settles O18: the state is the reset state but for the memory and the model's account, and in reset nothing acts on it. -/
theorem resetFromAnyState : Obligations.ResetFromAnyState := by
  intro s es
  exact ⟨State.assertReset { s with schedule := es }, rfl, rfl, rfl, readReg_assertReset _, rfl, rfl, rfl, rfl, rfl, rfl, rfl,
    rfl, engineTurn_idle rfl, hostWrite_inReset rfl, hostRead_inReset rfl, fun _ _ hdec => hostWrite_cmd_busy rfl rfl hdec⟩

/-! ## The end of a command -/

/-- Settles O40: the step that ends the command raises DONE or ERR, and the invariant after it excludes both. -/
theorem commandEndsOneWay : Obligations.CommandEndsOneWay := by
  intro s t hI hb hsched h ht
  have hone : ¬(t.done = true ∧ t.err = true) := (stepKeepsInvariant s t hI h).oneEnd
  obtain ⟨i, -, hstep⟩ := engineStepRunsLatchedCommand s hI hb hsched
  have hirq : (t.done || t.err) = true := exec_doneIrq hb (hstep ▸ h) ht
  cases hdone : t.done with
  | true => exact .inl ⟨rfl, by simpa [hdone] using hone⟩
  | false => exact .inr ⟨rfl, by simpa [hdone] using hirq⟩

end Sys2Proof.Machine
